-- ==== Sys2Proof/Word.lean ====
section
/-! DEFINITION. The value types of the block and their plainest arithmetic: elements, the 32-bit event counters, `clog2`. -/

namespace Sys2Proof

/-- An element of the ring: an opaque `W`-bit word (R21, R53), held as the number its bits write (bit 0 least
significant, R8). `W` is a build parameter (R6), so the bound `< 2 ^ W` is a check, not part of the type
(notes/assumptions/2: DESIGN CHOICE, safe). -/
abbrev Elem := Nat

/-- `seq` and `drop_count` are 32-bit registers that wrap modulo `2 ^ 32` (R31). -/
abbrev Word32 := BitVec 32

/-- R6: the least `k` with `2 ^ k >= n`. -/
def clog2 (n : Nat) : Nat := if n ≤ 1 then 0 else Nat.log2 (n - 1) + 1

end Sys2Proof
end

