-- ==== Sys2Proof/Machine/Counter.lean ====
section
/-! DEFINITION. The counter arithmetic of R9 and the Gray code of R62 and R63. -/

namespace Sys2Proof.Machine

/-- R9: the next counter value, `if x == 2*C - 1 then 0 else x + 1`. -/
def inc (C x : Nat) : Nat := if x = 2 * C - 1 then 0 else x + 1

/-- R9: `inc` applied `k` times, the `inc^k` of R37. -/
def advance (C x : Nat) : Nat → Nat
  | 0 => x
  | k + 1 => inc C (advance C x k)

/-- R9: the slot index `x mod C`, `if x >= C then x - C else x`. -/
def idx (C x : Nat) : Nat := if C ≤ x then x - C else x

/-- R9: `(a - b) mod 2*C`, the single subtraction with modulo correction when negative. -/
def occ (C a b : Nat) : Nat := if a < b then a + 2 * C - b else a - b

/-- R62: `b XOR (b >> 1)`. -/
def gray (b : Nat) : Nat := b ^^^ (b >>> 1)

/-- R63: Gray decoding of a `w`-bit code, the running XOR from the top bit: bit `i` is the XOR of the bits of `g`
from `i` up. -/
def bin : Nat → Nat → Nat
  | 0, _ => 0
  | w + 1, g => g ^^^ bin w (g >>> 1)

end Sys2Proof.Machine
end

