-- ==== Sys2Proof/Config.lean ====
section
/-! DEFINITION. The build parameters of R6, fixed for a block, and the free values the spec leaves open. -/

namespace Sys2Proof

/-- R2: the `CLOCKING` option. -/
inductive Clocking where
  /-- One clock for both ports (the baseline). -/
  | sync
  /-- Producer and consumer on separate clocks, Gray-coded crossing. -/
  | async
  deriving DecidableEq, Repr

/-- The build parameters of R6. `CW` and `W_FRAME` are derived from them; `C_TX` is the `capacity` of the build of a
TX instance (`Build.tx`). Which values are legal is `Build.legal` (WellFormed.lean). -/
structure Build where
  /-- `C`, the capacity in slots. -/
  capacity : Nat
  /-- `W`, the element width in bits. -/
  width : Nat
  /-- `CLOCKING`. -/
  clocking : Clocking
  /-- `N_SYNC`, the synchronizer depth in ASYNC mode. -/
  nSync : Nat
  /-- `INGEST_PRESENT`: whether the RX ingest front-end is built and owns the producer port. -/
  ingestPresent : Bool
  deriving DecidableEq, Repr

namespace Build

/-- `CW = clog2(2*C)`, the counter width (R6, D4). -/
def counterWidth (b : Build) : Nat := clog2 (2 * b.capacity)

/-- `W_FRAME = W - 32` (R6, D24). -/
def frameWidth (b : Build) : Nat := b.width - 32

/-- The build of `State.reset`: a bare SYNC ring. `C = 32` is the one capacity the source gives (D34); the other
parameters are this model's pick (notes/assumptions/1: DESIGN CHOICE, unsafe only for a claim about `State.reset`
itself; every statement is about any legal build). -/
def default : Build where
  capacity := 32
  width := 40
  clocking := .sync
  nSync := 2
  ingestPresent := false

/-- The RX instance of R6 (`C = 32`, front-end present), at a given element width and clocking. -/
def rx (width : Nat) (clocking : Clocking) (nSync : Nat) : Build where
  capacity := 32
  width := width
  clocking := clocking
  nSync := nSync
  ingestPresent := true

/-- The TX instance of R6 (no front-end); its capacity `C_TX` is an open parameter (D3). -/
def tx (cTx width : Nat) (clocking : Clocking) (nSync : Nat) : Build where
  capacity := cTx
  width := width
  clocking := clocking
  nSync := nSync
  ingestPresent := false

end Build

/-! R180: the responses the block drives while `rst` is asserted are unspecified (93 entry I4: any value). Each free
value depends on the port (0 producer, 1 consumer, 2 ingest) and on the counter `State.draws`
(notes/assumptions/7). -/

/-- A status code driven while `rst` is asserted. -/
opaque Config.freeStatusCode : Nat → Nat → BitVec 2

/-- A `p_count` or `c_count` driven while `rst` is asserted; the response keeps it below `2 ^ CW`. -/
opaque Config.freeCount : Nat → Nat → Nat

/-- A `p_full` or `c_empty` driven while `rst` is asserted. -/
opaque Config.freeFlag : Nat → Nat → Bool

/-- An `i_seq` or `i_drops` driven while `rst` is asserted (its first argument: 0 `i_seq`, 1 `i_drops`). -/
opaque Config.freeWord : Nat → Nat → Word32

end Sys2Proof
end

