-- ==== Sys2Proof/Syntax.lean ====
section
/-! DEFINITION. The three request ports and the ten operations of the opcode table, one constructor a row (R92). -/

namespace Sys2Proof

/-- The request ports of R80. -/
inductive Port where
  /-- `PREQ`, present when the front-end is not built. -/
  | producer
  /-- `CREQ`. -/
  | consumer
  /-- `IREQ`, present when the front-end is built. -/
  | ingest
  deriving DecidableEq, Repr

/-- One request, with every field its format gives it. The fields that an operation ignores (`p_data` of NOP_P,
PENDING_P and ILLEGAL_P; `i_has_pending` and `i_frame` of NOP_I) are kept, so that each request word is exactly one
`Instr` (notes/assumptions/16: DESIGN CHOICE, safe). -/
inductive Instr where
  /-- R101: no producer operation. -/
  | nopP (pData : Elem)
  /-- R102: append `p_data` at the tail of the ring. -/
  | push (pData : Elem)
  /-- R103: read the producer-side occupancy. -/
  | pendingP (pData : Elem)
  /-- R104: the reserved producer encoding. -/
  | illegalP (pData : Elem)
  /-- R121: no consumer operation. -/
  | nopC
  /-- R122: remove and return the element at the head. -/
  | pop
  /-- R123: return the element at the head without removing it. -/
  | peek
  /-- R124: read the consumer-side occupancy. -/
  | pendingC
  /-- R142: no ingest operation. -/
  | nopI (hasPending : Bool) (frame : Nat)
  /-- R143: take one received frame, stamp it and push it, or count it as dropped. -/
  | ingest (hasPending : Bool) (frame : Nat)
  deriving DecidableEq, Repr

/-- The port whose request format an operation belongs to (R92). -/
def Instr.port : Instr → Port
  | .nopP _ => .producer
  | .push _ => .producer
  | .pendingP _ => .producer
  | .illegalP _ => .producer
  | .nopC => .consumer
  | .pop => .consumer
  | .peek => .consumer
  | .pendingC => .consumer
  | .nopI _ _ => .ingest
  | .ingest _ _ => .ingest

end Sys2Proof
end

