-- ==== Sys2Proof/WellFormed.lean ====
section
/-! DEFINITION. Which builds are blocks (R6, R7), which ports a build has (R80, R140), and which requests fit a
port's wires (R80, R87). -/

namespace Sys2Proof

namespace Build

/-- In ASYNC mode `2*C = 2^CW`, that is, `C` a power of two (R62, R69); SYNC mode has no such restriction. -/
def capacityFitsClocking (b : Build) : Bool :=
  match b.clocking with
  | .sync => true
  | .async => 2 ^ b.counterWidth == 2 * b.capacity

/-- The legal builds of R6; a build outside them is not a block and is refused (R7). The bound on `N_SYNC` is read
as R7 writes it, in both clockings (notes/assumptions/18: DEDUCED, safe). -/
def legal (b : Build) : Bool :=
  decide (1 ≤ b.capacity) && decide (1 ≤ b.width) && decide (2 ≤ b.nSync) && b.capacityFitsClocking
    && (!b.ingestPresent || decide (33 ≤ b.width))

/-- The ports a build has (R80): `PREQ` is not an external port when the front-end is built (R86, R140). -/
def hasPort (b : Build) : Port → Bool
  | .producer => !b.ingestPresent
  | .consumer => true
  | .ingest => b.ingestPresent

/-- The width in bits of a port's request (R80). -/
def requestWidth (b : Build) : Port → Nat
  | .producer => b.width + 2
  | .consumer => 2
  | .ingest => b.frameWidth + 2

end Build

namespace Instr

/-- The operand fits its field: `p_data` is `W` bits, `i_frame` is `W_FRAME` bits (R80). -/
def fits (b : Build) : Instr → Bool
  | .nopP v => decide (v < 2 ^ b.width)
  | .push v => decide (v < 2 ^ b.width)
  | .pendingP v => decide (v < 2 ^ b.width)
  | .illegalP v => decide (v < 2 ^ b.width)
  | .nopC => true
  | .pop => true
  | .peek => true
  | .pendingC => true
  | .nopI _ f => decide (f < 2 ^ b.frameWidth)
  | .ingest _ f => decide (f < 2 ^ b.frameWidth)

/-- A request a build's ports can carry: its port exists and its operand fits. -/
def wellFormed (b : Build) (i : Instr) : Bool := b.hasPort i.port && i.fits b

end Instr

end Sys2Proof
end

