-- ==== Sys2Proof/Decode.lean ====
section
/-! DEFINITION. The request formats of R80 and the operation decode of R81, R82 and R83, total on any bits of any
port and rejecting by name; after it the encoder, from the same tables. -/

namespace Sys2Proof

/-- R8: `v[hi:lo]`, the field of `v` from bit `hi` down to bit `lo`, inclusive. -/
def bitField (v hi lo : Nat) : Nat := v / 2 ^ lo % 2 ^ (hi + 1 - lo)

/-- R8: `{a, b}`, with `a` in the high bits and `b` of width `n`. -/
def concatBits (a n b : Nat) : Nat := a * 2 ^ n + b

/-- Why the decoder gives no instruction. -/
inductive DecodeError where
  /-- The build has no such port (R80, R86, R140). -/
  | portAbsent
  /-- The bits do not fit the port's fixed request width (R80, R88). -/
  | requestTooWide
  deriving DecidableEq, Repr

/-- The decoder's answer. -/
inductive DecodeResult where
  | ok (i : Instr)
  | rejected (r : DecodeError)
  deriving DecidableEq, Repr

/-- The instruction, where there is one. -/
def DecodeResult.instr? : DecodeResult → Option Instr
  | .ok i => some i
  | .rejected _ => none

/-- R81: `p_op = PREQ[1:0]`, `p_data = PREQ[W+1:2]`. -/
def decodeProducer (b : Build) (w : Nat) : Instr :=
  let pData := bitField w (b.width + 1) 2
  match bitField w 1 0 with
  | 0 => .nopP pData
  | 1 => .push pData
  | 2 => .pendingP pData
  | _ => .illegalP pData

/-- R82: `c_op = CREQ[1:0]`. -/
def decodeConsumer (w : Nat) : Instr :=
  match bitField w 1 0 with
  | 0 => .nopC
  | 1 => .pop
  | 2 => .peek
  | _ => .pendingC

/-- R83: `i_op = IREQ[0]`, `i_has_pending = IREQ[1]`, `i_frame = IREQ[W_FRAME+1:2]`. -/
def decodeIngest (b : Build) (w : Nat) : Instr :=
  let hasPending := bitField w 1 1 == 1
  let frame := bitField w (b.frameWidth + 1) 2
  match bitField w 0 0 with
  | 0 => .nopI hasPending frame
  | _ => .ingest hasPending frame

/-- The request on a port, decoded. The port is no part of the request's bits (R80). -/
def decode (b : Build) (p : Port) (w : Nat) : DecodeResult :=
  if b.hasPort p = false then .rejected .portAbsent
  else if 2 ^ b.requestWidth p ≤ w then .rejected .requestTooWide
  else match p with
    | .producer => .ok (decodeProducer b w)
    | .consumer => .ok (decodeConsumer w)
    | .ingest => .ok (decodeIngest b w)

/-- The bit a Boolean request field drives. -/
def bitOf (h : Bool) : Nat := if h then 1 else 0

/-- The request word of an operation, on its own port: `PREQ = {p_data, p_op}`, `CREQ = c_op`,
`IREQ = {i_frame, i_has_pending, i_op}` (R80 to R83). -/
def encode : Instr → Nat
  | .nopP v => concatBits v 2 0
  | .push v => concatBits v 2 1
  | .pendingP v => concatBits v 2 2
  | .illegalP v => concatBits v 2 3
  | .nopC => 0
  | .pop => 1
  | .peek => 2
  | .pendingC => 3
  | .nopI h f => concatBits f 2 (concatBits (bitOf h) 1 0)
  | .ingest h f => concatBits f 2 (concatBits (bitOf h) 1 1)

/-- The port a word of spec/opcode_table.json is read on. The table's rows give no port, and the three ports use the
same low bits for different operations (R81, R82, R83), so one port must be named: the producer port, the first of
R80 (notes/assumptions/15: DESIGN CHOICE). Every row's own port is decoded by `decode`. -/
def tableWordPort : Port := .producer

/-- The request word a table word stands for: its `nbits` bits, every bit above them 0. -/
def tableWordBits (nbits w : Nat) : Nat := w % 2 ^ nbits

/-- The instruction the decoder reads from a table word, on `tableWordPort` of the build of `State.reset`. -/
def decodeTableWord (nbits w : Nat) : Option Instr :=
  (decode Build.default tableWordPort (tableWordBits nbits w)).instr?

end Sys2Proof
end

