-- ==== Sys2Proof/Machine/State.lean ====
section
/-! DEFINITION. The state of the block (R20), of the agents and inputs around it (R11, R89, R170, R180), the reasons
a step can stop, and the state after reset (R36). Plain data throughout. -/

namespace Sys2Proof.Machine

/-- Why the machine stops with a fault. -/
inductive Fault where
  /-- Raised by every operation and every step in a state with `occ(pushed, popped) > C`, which the spec gives no step
  (R39, D25), but in one that the first edge of an ASYNC reset leaves (notes/assumptions/12). Safe. -/
  | occupancyAboveCapacity
  /-- Raised as `occupancyAboveCapacity` is, where a counter is outside `0 .. 2*C-1` (R22, R23; notes/assumptions/12).
  Safe. -/
  | counterOutOfRange
  /-- Raised as `occupancyAboveCapacity` is, where a synchronized view breaks the bounds that R67 gives for every
  reachable state (notes/assumptions/12). Safe. -/
  | viewOutOfBounds
  /-- Raised by POP and PEEK when the head slot has not been written since reset: it has no value (R36, 93 entry I1).
  Not reachable from reset (R37). Safe. -/
  | slotUnwritten
  deriving DecidableEq, Repr

/-- Why the machine gives an instruction or an input no meaning. Each is safe: the machine stops. -/
inductive Refusal where
  /-- Raised by `exec`'s arm of an instruction that has no meaning yet. -/
  | notModelled (mnemonic : String)
  /-- Raised by every operation, and every step, of a build with parameters outside R6 (R7, 93 entry I14). -/
  | illegalBuild
  /-- Raised by a request on a port the build does not have (R80, R86, R140). -/
  | portAbsent
  /-- Raised by a request word wider than its port (R80, R88). -/
  | requestTooWide
  /-- Raised by an operation whose operand does not fit its field (R80, R87); no decoded request raises it. -/
  | operandTooWide
  /-- Raised by a request, a same-cycle pair or a sync step while only one domain is out of reset (R181, I5), and by
  a sync step while `rst` is asserted. -/
  | inReset
  /-- Raised when `rst` is released before each domain has had an edge with it asserted (R181; in SYNC mode the
  model's choice, notes/assumptions/13). -/
  | resetReleasedEarly
  /-- Raised when two agents drive one port, or an outside request comes on a port an agent drives (R184, I8). -/
  | sharedPort
  /-- Raised when an agent's script issues an operation of another port, or one its port cannot carry (R86, R140,
  R169). -/
  | scriptNotOnPort
  /-- Raised by a step of an agent that does not exist. -/
  | noSuchAgent
  /-- Raised by a same-cycle input in ASYNC mode, where the sides never share an edge (R166). -/
  | noSharedEdge
  /-- Raised by a sync step in SYNC mode, which has no crossing (R30, R170). -/
  | noCrossing
  /-- Raised by a sync step of a length outside `1 .. occ(remote, view)` (R65, R66). -/
  | illegalSyncStep
  deriving DecidableEq, Repr

/-- A status, as the name its 2-bit code has (R85); code 2 is EMPTY on the consumer port and NO_MESSAGE on the ingest
port. -/
inductive Status where
  | ok
  | full
  | emptyOrNoMessage
  | illegal
  deriving DecidableEq, Repr

/-- The two sides, and in ASYNC mode their clock domains (R30, R80): the producer and ingest ports use the producer
clock. -/
inductive Domain where
  | producer
  | consumer
  deriving DecidableEq, Repr

/-- The clock domain of a port (R80). -/
def domainOf : Port → Domain
  | .producer => .producer
  | .consumer => .consumer
  | .ingest => .producer

/-- The reset input `rst` as one domain sees it, with whether the domain has had a clock edge since it was asserted
(R180, R181). -/
inductive ResetLine where
  | released
  | asserted (edgeSeen : Bool)
  deriving DecidableEq, Repr

/-- What the producer port drives in a cycle (R84). -/
structure ProducerResponse where
  status : Status
  count : Nat
  full : Bool
  deriving DecidableEq, Repr

/-- What the consumer port drives in a cycle (R84); `data` is `none` where `c_data` carries no element (R29). -/
structure ConsumerResponse where
  status : Status
  data : Option Elem
  count : Nat
  empty : Bool
  deriving DecidableEq, Repr

/-- What the ingest port drives in a cycle (R84). -/
structure IngestResponse where
  status : Status
  seq : Word32
  drops : Word32
  deriving DecidableEq, Repr

/-- The response of each port's latest request or clock-edge input; `none` before its first. Not state of the block
(R29): the model keeps it so that a response can be read. A cycle in which only other ports have an input records none
for this port, in SYNC mode too, where it is idle in that same clock cycle and drives its NOP's answer (R84, R175;
notes/assumptions/5: DESIGN CHOICE). -/
structure Responses where
  producer : Option ProducerResponse
  consumer : Option ConsumerResponse
  ingest : Option IngestResponse
  deriving DecidableEq, Repr

/-- One line of an agent script: a block operation of R89, or an agent-local step of R90. A label is the position of
the line it stands for. -/
inductive Line where
  /-- A block operation: one request on the agent's port. -/
  | op (i : Instr)
  /-- `B.OK L`. -/
  | bOk (label : Nat)
  /-- `B.FULL L`. -/
  | bFull (label : Nat)
  /-- `B.EMPTY L`. -/
  | bEmpty (label : Nat)
  /-- `B.NOMSG L`. -/
  | bNoMsg (label : Nat)
  /-- `SETN`: `n <- cnt`. -/
  | setNCnt
  /-- `SETN k`. -/
  | setN (k : Nat)
  /-- `DECN`. -/
  | decN
  /-- `B.ZN L`. -/
  | bZn (label : Nat)
  /-- `B.NZ L`. -/
  | bNz (label : Nat)
  /-- `JMP L`. -/
  | jmp (label : Nat)
  /-- `HALT`. -/
  | halt
  deriving DecidableEq, Repr

/-- An agent: the port it drives, its script, and the agent-local state of R89. -/
structure Agent where
  port : Port
  script : List Line
  /-- `ip`, the script position. -/
  ip : Nat
  /-- `st`, the status of its last block operation. -/
  st : Status
  /-- `cnt`, the count of its last PENDING. -/
  cnt : Nat
  /-- `dat`, the `c_data` of its last successful POP or PEEK; `none` before the first. -/
  dat : Option Elem
  /-- `n`, the loop counter. -/
  n : Int
  /-- `log`, every element its successful POPs returned, in order. -/
  log : List Elem
  /-- The agent has stopped (`HALT`). -/
  halted : Bool
  deriving DecidableEq, Repr

/-- An agent before its first step (initial local values: notes/assumptions/19, DESIGN CHOICE, unsafe). -/
def Agent.start (port : Port) (script : List Line) : Agent where
  port := port
  script := script
  ip := 0
  st := .ok
  cnt := 0
  dat := none
  n := 0
  log := []
  halted := false

/-- One thing that happens to the block: a step of one of the agents of R170, or of a clock. -/
inductive Input where
  /-- A request word on a port, as a step of that port's own agent (R11, R170). -/
  | request (port : Port) (bits : Nat)
  /-- SYNC only: a producer-side request (`PREQ`, or `IREQ` where the front-end is built) and a consumer request in
  the same cycle (R57). -/
  | sameCycle (producerBits consumerBits : Nat)
  /-- One clock edge of a domain, with the request the port carries, if any. In ASYNC mode the domain's synchronizer
  chain also shifts at the edge (R30), and `late` is the draw of R64: whether its first stage captures the value the
  other domain's register had before a change near the edge. -/
  | edge (domain : Domain) (bits : Option Nat) (late : Bool)
  /-- The agent at this position of `State.agents` takes one step of its script (R89, R90). -/
  | agent (index : Nat)
  /-- ASYNC only: a sync step of a side, of length `k` (R65, R66). -/
  | sync (domain : Domain) (k : Nat)
  /-- `rst` is asserted (R180). -/
  | rstAssert
  /-- `rst` is released, in ASYNC mode in one domain (R181). -/
  | rstRelease (domain : Domain)
  deriving DecidableEq, Repr

/-- The slot store: the written slots as (index, element) pairs. An index that is not listed has no value (R36,
93 entry I1). Its canonical form is `Memory.wf`. -/
abbrev Memory := List (Nat × Elem)

/-- The state. The first group is the build, which no step changes; the second is the block's state, R20's table; the
last is the model's own (INVENTORY.md, State). The crossing registers are present in ASYNC mode only and `seq` and
`dropCount` with the front-end only; elsewhere they keep their reset value and nothing reads them
(notes/assumptions/4). -/
structure State where
  /-- The build parameters (R6). -/
  build : Build
  /-- `slot[0..C-1]` (R21). -/
  slots : Memory
  /-- `pushed` (R22). -/
  pushed : Nat
  /-- `popped` (R23). -/
  popped : Nat
  /-- `pushed_gray`, producer domain (R30). -/
  pushedGray : Nat
  /-- `popped_gray`, consumer domain (R30). -/
  poppedGray : Nat
  /-- `wsync[0..N_SYNC-1]`, consumer domain, stage 0 first (R30). -/
  wsync : List Nat
  /-- `rsync[0..N_SYNC-1]`, producer domain, stage 0 first (R30). -/
  rsync : List Nat
  /-- `seq` (R31). -/
  seq : Word32
  /-- `drop_count` (R31). -/
  dropCount : Word32
  /-- What `pushed_gray` held before a change that is still near the consumer's next capturing edge; else its value
  (R64; notes/assumptions/10). -/
  pushedGrayOld : Nat
  /-- What `popped_gray` held before a change that is still near the producer's next capturing edge; else its value. -/
  poppedGrayOld : Nat
  /-- `rst` in the producer domain (in SYNC mode, both lines always agree). -/
  rstP : ResetLine
  /-- `rst` in the consumer domain. -/
  rstC : ResetLine
  /-- The responses of the ports' latest requests and edges (R84; notes/assumptions/5). -/
  resp : Responses
  /-- How many responses under reset have been drawn from the free values of Config. -/
  draws : Nat
  /-- What happens next, in order. -/
  inputs : List Input
  /-- The agents that run scripts. -/
  agents : List Agent
  deriving DecidableEq, Repr

/-- The outcome of a step of this machine. -/
abbrev Result := Host.Outcome State Fault Refusal

/-- The block of a build right after reset (R36), no agent attached and nothing happening. -/
def State.resetOf (b : Build) : State where
  build := b
  slots := []
  pushed := 0
  popped := 0
  pushedGray := 0
  poppedGray := 0
  wsync := List.replicate b.nSync 0
  rsync := List.replicate b.nSync 0
  seq := 0
  dropCount := 0
  pushedGrayOld := 0
  poppedGrayOld := 0
  rstP := .released
  rstC := .released
  resp := { producer := none, consumer := none, ingest := none }
  draws := 0
  inputs := []
  agents := []

/-- The machine right after reset, in the build `Build.default` (notes/assumptions/1). -/
def State.reset : State := State.resetOf Build.default

end Sys2Proof.Machine
end

