-- ==== Sys2Proof/Machine/Flags.lean ====
section
/-! DEFINITION. The status codes of R85 and the continuously driven status outputs of R28 and R31, each computed from
the state. -/

namespace Sys2Proof.Machine

/-- R85: the 2-bit code of a status. -/
def Status.code : Status → BitVec 2
  | .ok => 0
  | .full => 1
  | .emptyOrNoMessage => 2
  | .illegal => 3

/-- The status a 2-bit code means (R85). -/
def Status.ofCode (c : BitVec 2) : Status :=
  if c = 0 then .ok else if c = 1 then .full else if c = 2 then .emptyOrNoMessage else .illegal

/-- R27: empty is not a register. -/
def isEmpty (C a b : Nat) : Bool := occ C a b == 0

/-- R27: full is not a register. -/
def isFull (C a b : Nat) : Bool := occ C a b == C

namespace State

/-- `C`, the capacity of the block's build. -/
def cap (s : State) : Nat := s.build.capacity

/-- R25: the occupancy, computed whenever it is read. -/
def occupancy (s : State) : Nat := occ s.cap s.pushed s.popped

/-- R65: the producer side's view of `popped`, `bin(rsync[N_SYNC-1])`. -/
def poppedSeenP (s : State) : Nat := bin s.build.counterWidth (s.rsync.getLastD 0)

/-- R66: the consumer side's view of `pushed`, `bin(wsync[N_SYNC-1])`. -/
def pushedSeenC (s : State) : Nat := bin s.build.counterWidth (s.wsync.getLastD 0)

/-- R100: `popped_view`. -/
def poppedView (s : State) : Nat :=
  match s.build.clocking with
  | .sync => s.popped
  | .async => s.poppedSeenP

/-- R120: `pushed_view`. -/
def pushedView (s : State) : Nat :=
  match s.build.clocking with
  | .sync => s.pushed
  | .async => s.pushedSeenC

/-- R28: output `p_count`. -/
def pCount (s : State) : Nat := occ s.cap s.pushed s.poppedView

/-- R28: output `p_full`. -/
def pFull (s : State) : Bool := isFull s.cap s.pushed s.poppedView

/-- R28: output `c_count`. -/
def cCount (s : State) : Nat := occ s.cap s.pushedView s.popped

/-- R28: output `c_empty`. -/
def cEmpty (s : State) : Bool := isEmpty s.cap s.pushedView s.popped

/-- R31: output `i_seq`. -/
def iSeq (s : State) : Word32 := s.seq

/-- R31: output `i_drops`. -/
def iDrops (s : State) : Word32 := s.dropCount

end State

end Sys2Proof.Machine
end

