-- ==== Sys2Proof/Machine/Ops.lean ====
section
/-! DEFINITION. The operations every meaning shares: the slot store (R10, R21), the response (R84), raising an
exception (R10, R160), storing at the tail and taking from the head (R102, R122) and the reset edge (R180, R181). -/

namespace Sys2Proof.Machine

namespace Memory

/-- R10: `MemRead(i, 1)`; `none` where slot `i` has no value. -/
def read : Memory → Nat → Option Elem
  | [], _ => none
  | (j, w) :: m, i => if i = j then some w else read m i

/-- R10: `MemWrite(i, 1, v)`, keeping the indices strictly rising. -/
def write : Memory → Nat → Elem → Memory
  | [], i, v => [(i, v)]
  | (j, w) :: m, i, v =>
    if i < j then (i, v) :: (j, w) :: m
    else if i = j then (i, v) :: m
    else (j, w) :: write m i v

/-- The indices rise strictly. -/
def rising : Memory → Bool
  | [] => true
  | (i, _) :: m => m.all (fun c => decide (i < c.1)) && rising m

/-- The canonical form in a build of capacity `C` and width `W` (R50): indices strictly rising and below `C`, elements
of `W` bits. An unlisted index has no value, so no entry can equal it. -/
def wf (C W : Nat) (m : Memory) : Bool :=
  rising m && m.all (fun c => decide (c.1 < C) && decide (c.2 < 2 ^ W))

end Memory

namespace State

/-- Element `i` of the slot store. -/
def slot (s : State) (i : Nat) : Option Elem := Memory.read s.slots i

/-- `pushed <- v`; in ASYNC mode `pushed_gray` changes at the same edge (R30), and the change is near the consumer's
next capturing edge (R64). -/
def setPushed (v : Nat) (s : State) : State :=
  match s.build.clocking with
  | .sync => { s with pushed := v }
  | .async => { s with pushed := v, pushedGray := gray v, pushedGrayOld := s.pushedGray }

/-- `popped <- v`; in ASYNC mode `popped_gray` changes at the same edge (R30). -/
def setPopped (v : Nat) (s : State) : State :=
  match s.build.clocking with
  | .sync => { s with popped := v }
  | .async => { s with popped := v, poppedGray := gray v, poppedGrayOld := s.poppedGray }

/-- R102: `slot[idx(pushed)] <- v` and `pushed <- inc(pushed)`, at one edge (R59). -/
def store (v : Elem) (s : State) : State :=
  setPushed (inc s.cap s.pushed) { s with slots := Memory.write s.slots (idx s.cap s.pushed) v }

/-- R122: `popped <- inc(popped)`; the slot is not cleared (R21). -/
def take (s : State) : State := setPopped (inc s.cap s.popped) s

/-- R122, R123: the element at the head, `MemRead(idx(popped), 1)`. -/
def head (s : State) : Option Elem := s.slot (idx s.cap s.popped)

end State

/-- Drive a port's response: the status and the data the operation gives, and the outputs computed from the state
before the edge (R84). `pre` is the state before the edge and `post` the state after it. The other ports' recorded
responses stay, in SYNC mode too, where those ports are idle in the same cycle (notes/assumptions/5: DESIGN CHOICE). -/
def respond (p : Port) (st : Status) (data : Option Elem) (pre post : State) : State :=
  let resp := match p with
    | .producer => { post.resp with producer := some { status := st, count := pre.pCount, full := pre.pFull } }
    | .consumer =>
      { post.resp with consumer := some { status := st, data := data, count := pre.cCount, empty := pre.cEmpty } }
    | .ingest => { post.resp with ingest := some { status := st, seq := pre.iSeq, drops := pre.iDrops } }
  { post with resp := resp }

/-- R10, R160: raise an exception. The operation ends at once, its port's status carries the exception's code, and no
state of the block is written; nothing is saved, and there is no handler and no return (R168). -/
def raise (p : Port) (st : Status) (s : State) : Result := .next (respond p st none s s)

/-- The operation ends with status OK and its writes. -/
def complete (p : Port) (data : Option Elem) (pre post : State) : Result := .next (respond p .ok data pre post)

/-- The number a port has in the free values of Config. -/
def portNumber : Port → Nat
  | .producer => 0
  | .consumer => 1
  | .ingest => 2

/-- The response of a port while `rst` is asserted: unspecified (R180, 93 entry I4), so each of its fields is a free
value, within its width; `c_data` carries no element (R29). -/
def respondUnspecified (p : Port) (s : State) : State :=
  let st := Status.ofCode (Config.freeStatusCode (portNumber p) s.draws)
  let count := Config.freeCount (portNumber p) s.draws % 2 ^ s.build.counterWidth
  let flag := Config.freeFlag (portNumber p) s.draws
  let seq := Config.freeWord 0 s.draws
  let drops := Config.freeWord 1 s.draws
  let resp := match p with
    | .producer => { s.resp with producer := some { status := st, count := count, full := flag } }
    | .consumer => { s.resp with consumer := some { status := st, data := none, count := count, empty := flag } }
    | .ingest => { s.resp with ingest := some { status := st, seq := seq, drops := drops } }
  { s with resp := resp, draws := s.draws + 1 }

/-- R36, R181: the producer domain's registers at an edge with `rst` asserted. The slots have no value after it
(notes/assumptions/13). -/
def resetProducerSide (s : State) : State :=
  { s with
    slots := []
    pushed := 0
    pushedGray := 0
    pushedGrayOld := 0
    rsync := List.replicate s.build.nSync 0
    seq := 0
    dropCount := 0
    rstP := .asserted true }

/-- R36, R181: the consumer domain's registers at an edge with `rst` asserted. -/
def resetConsumerSide (s : State) : State :=
  { s with
    popped := 0
    poppedGray := 0
    poppedGrayOld := 0
    wsync := List.replicate s.build.nSync 0
    rstC := .asserted true }

/-- R180: one edge of a domain's clock with `rst` asserted. In SYNC mode there is one clock. -/
def resetEdge (d : Domain) (s : State) : State :=
  match s.build.clocking, d with
  | .sync, _ => resetConsumerSide (resetProducerSide s)
  | .async, .producer => resetProducerSide s
  | .async, .consumer => resetConsumerSide s

end Sys2Proof.Machine
end

