-- ==== Sys2Proof/Machine/Guard.lean ====
section
/-! DEFINITION. The states the spec gives a step (R26, R30, R39, R67), in reset as out of it (R181), and the conditions
under which a port performs a request at all. -/

namespace Sys2Proof.Machine

/-- How far each of a register's old value and a chain's stages lags behind the counter `remote`. -/
def lags (C cw remote old : Nat) (chain : List Nat) : List Nat :=
  (old :: chain).map fun g => occ C remote (bin cw g)

/-- One half of the crossing (R30): the register holds the Gray code of its counter, the stages hold codes of `CW` bits
and lag ever further behind the counter, and a change that is still near is of one step. -/
abbrev ChainInv (b : Build) (remote reg old : Nat) (chain : List Nat) : Prop :=
  reg = gray remote ∧ chain.length = b.nSync ∧ (∀ g ∈ old :: chain, g < 2 ^ b.counterWidth)
    ∧ (lags b.capacity b.counterWidth remote old chain).Pairwise (· ≤ ·)
    ∧ occ b.capacity remote (bin b.counterWidth old) ≤ 1

/-- What holds of the counters out of reset: the occupancy is at most `C` (R26), the views are conservative (R67), and
in ASYNC mode both halves of the crossing hold (R30). -/
abbrev CountersInv (s : State) : Prop :=
  s.occupancy ≤ s.cap ∧ s.occupancy ≤ s.pCount ∧ s.pCount ≤ s.cap ∧ s.cCount ≤ s.occupancy
    ∧ (s.build.clocking = .async →
        ChainInv s.build s.popped s.poppedGray s.poppedGrayOld s.rsync
          ∧ ChainInv s.build s.pushed s.pushedGray s.pushedGrayOld s.wsync)

/-- What holds of the block out of reset: of its counters (R26, R30, R67), and that the live slots have values (R37). -/
abbrev RunningInv (s : State) : Prop :=
  CountersInv s ∧ ∀ k < s.occupancy, (s.slot (idx s.cap (advance s.cap s.popped k))).isSome = true

/-- The states the spec gives no step: `occ(pushed, popped) > C` (R39), and in the same way a counter out of its range
(R22, R23) and a view outside the bounds of R67 (notes/assumptions/12). -/
def ringFault (s : State) : Option Fault :=
  if 2 * s.cap ≤ s.pushed ∨ 2 * s.cap ≤ s.popped then some .counterOutOfRange
  else if s.cap < s.occupancy then some .occupancyAboveCapacity
  else if s.cap < s.pCount ∨ s.pCount < s.occupancy ∨ s.occupancy < s.cCount then some .viewOutOfBounds
  else none

/-- R36, R181: the producer domain holds its reset values. -/
abbrev ProducerSideReset (s : State) : Prop :=
  s.slots = [] ∧ s.pushed = 0 ∧ s.pushedGray = 0 ∧ s.pushedGrayOld = 0 ∧ s.rsync = List.replicate s.build.nSync 0
    ∧ s.seq = 0 ∧ s.dropCount = 0

/-- R36, R181: the consumer domain holds its reset values. -/
abbrev ConsumerSideReset (s : State) : Prop :=
  s.popped = 0 ∧ s.poppedGray = 0 ∧ s.poppedGrayOld = 0 ∧ s.wsync = List.replicate s.build.nSync 0

/-- The counters and the crossing as they may have stood before the producer domain's reset edge, with `pushed` at `u`:
its register with no change near, and its chain full of what it could have captured last. -/
def beforeProducerReset (u : Nat) (s : State) : State :=
  { s with
    pushed := u
    pushedGray := gray u
    pushedGrayOld := gray u
    rsync := List.replicate s.build.nSync s.poppedGrayOld }

/-- The same before the consumer domain's reset edge, with `popped` at `q`. -/
def beforeConsumerReset (q : Nat) (s : State) : State :=
  { s with
    popped := q
    poppedGray := gray q
    poppedGrayOld := gray q
    wsync := List.replicate s.build.nSync s.pushedGrayOld }

/-- Between the two domains' edges of an ASYNC reset, in a state that such a reset leaves: `rst` is asserted, one domain
has had its edge and holds its reset values, and the other has had none, so its counter, Gray register, chain and slots
stand as they did out of reset, beside some value of the counter that the edge overwrote (R22, R23, R26, R30, R37, R50,
R67, R181; notes/assumptions/12). -/
def midReset (s : State) : Bool :=
  match s.build.clocking, s.rstP, s.rstC with
  | .async, .asserted true, .asserted false =>
    decide (ProducerSideReset s ∧ s.popped < 2 * s.cap ∧ ∃ u < 2 * s.cap, CountersInv (beforeProducerReset u s))
  | .async, .asserted false, .asserted true =>
    decide (ConsumerSideReset s ∧ s.pushed < 2 * s.cap ∧ Memory.wf s.cap s.build.width s.slots = true
      ∧ ∃ q < 2 * s.cap, RunningInv (beforeConsumerReset q s))
  | _, _, _ => false

/-- The fault of a state the spec gives no step, whatever the step (R39, D25). Between the two domains' edges of an
ASYNC reset one counter is 0 and the other is as the run left it: such a state is reached from reset, so R39 does not mean
it, and the reset goes on (R181; notes/assumptions/12). -/
def stateFault (s : State) : Option Fault := if midReset s then none else ringFault s

/-- What takes effect in a block that may take a step: a build that is no block is refused (R7), and a state the spec
gives no step is a fault (R39). -/
def guarded (s : State) (r : Result) : Result :=
  if s.build.legal = false then .refused .illegalBuild
  else match stateFault s with
    | some f => .fault f
    | none => r

/-- A port performs a request: in a legal build (R7), on a port that exists (R80, R86, R140), with operands that fit
its wires (R80). In a state the spec gives no step it is a fault (R39). While `rst` is asserted the request is ignored:
the edge resets the port's domain and the response is unspecified (R180); while one domain only is out of reset the
request is refused (R181). -/
def operate (i : Instr) (s : State) (op : State → Result) : Result :=
  if s.build.legal = false then .refused .illegalBuild
  else if s.build.hasPort i.port = false then .refused .portAbsent
  else if i.fits s.build = false then .refused .operandTooWide
  else match stateFault s with
    | some f => .fault f
    | none =>
      match s.rstP, s.rstC with
      | .released, .released => op s
      | .asserted _, .asserted _ => .next (respondUnspecified i.port (resetEdge (domainOf i.port) s))
      | .released, .asserted _ => .refused .inReset
      | .asserted _, .released => .refused .inReset

end Sys2Proof.Machine
end

