-- ==== Sys2Proof/Machine/Operands.lean ====
section
/-! DEFINITION. Operand assembly (R87): `p_data` is the element as it stands, and the element INGEST forms carries
`i_frame` above the stamp (R141). -/

namespace Sys2Proof.Machine

/-- R87: `p_data` is taken verbatim as the element to push. -/
def pushedElement (pData : Elem) : Elem := pData

/-- R141: `e = {i_frame, s}`, with the sequence number in bits `[31:0]`. -/
def stampedElement (frame : Nat) (stamp : Word32) : Elem := concatBits frame 32 stamp.toNat

/-- R143: `s = (seq + 1) mod 2^32`. -/
def nextStamp (s : State) : Word32 := s.seq + 1

/-- R143: `drop_count <- (drop_count + 1) mod 2^32`. -/
def nextDropCount (s : State) : Word32 := s.dropCount + 1

end Sys2Proof.Machine
end

