-- ==== Sys2Proof/Machine/Consumer.lean ====
section
/-! DEFINITION. The consumer-port operations (41_consumer_ops.md). -/

namespace Sys2Proof.Machine

/-- R121: NOP_C. `c_data` carries no element. -/
def execNopC (s : State) : Result :=
  operate .nopC s fun s => complete .consumer none s s

/-- R122: POP. The empty check reads the consumer's view of `pushed`. A head slot without a value is a fault (93 entry
I1). -/
def execPop (s : State) : Result :=
  operate .pop s fun s =>
    if s.cCount = 0 then raise .consumer .emptyOrNoMessage s
    else match s.head with
      | none => .fault .slotUnwritten
      | some e => complete .consumer (some e) s s.take

/-- R123: PEEK. As POP, but `popped` does not advance. -/
def execPeek (s : State) : Result :=
  operate .peek s fun s =>
    if s.cCount = 0 then raise .consumer .emptyOrNoMessage s
    else match s.head with
      | none => .fault .slotUnwritten
      | some e => complete .consumer (some e) s s

/-- R124: PENDING_C. The result is the `c_count` of the response. -/
def execPendingC (s : State) : Result :=
  operate .pendingC s fun s => complete .consumer none s s

end Sys2Proof.Machine
end

