-- ==== Sys2Proof/Machine/Ingest.lean ====
section
/-! DEFINITION. The RX ingest front-end's operations (43_ingest_frontend.md). -/

namespace Sys2Proof.Machine

/-- R142: NOP_I. Its operands are ignored. -/
def execNopI (hasPending : Bool) (frame : Nat) (s : State) : Result :=
  operate (.nopI hasPending frame) s fun s => complete .ingest none s s

/-- R143: INGEST. `seq` advances whether the frame is stored or dropped; the inner BufferFull is caught, counted in
`drop_count` and reported as FULL (R161). -/
def execIngest (hasPending : Bool) (frame : Nat) (s : State) : Result :=
  operate (.ingest hasPending frame) s fun s =>
    if hasPending = false then raise .ingest .emptyOrNoMessage s
    else
      let stamped := { s with seq := nextStamp s }
      if s.pCount = s.cap then
        .next (respond .ingest .full none s { stamped with dropCount := nextDropCount s })
      else complete .ingest none s (stamped.store (stampedElement frame (nextStamp s)))

end Sys2Proof.Machine
end

