-- ==== Sys2Proof/Machine/Producer.lean ====
section
/-! DEFINITION. The producer-port operations (40_producer_ops.md). -/

namespace Sys2Proof.Machine

/-- R101: NOP_P. `p_data` is ignored; nothing changes. -/
def execNopP (pData : Elem) (s : State) : Result :=
  operate (.nopP pData) s fun s => complete .producer none s s

/-- R102: PUSH. The full check reads the producer's view of `popped`. -/
def execPush (pData : Elem) (s : State) : Result :=
  operate (.push pData) s fun s =>
    if s.pCount = s.cap then raise .producer .full s
    else complete .producer none s (s.store (pushedElement pData))

/-- R103: PENDING_P. The result is the `p_count` of the response. -/
def execPendingP (pData : Elem) (s : State) : Result :=
  operate (.pendingP pData) s fun s => complete .producer none s s

/-- R104: ILLEGAL_P, the reserved encoding. Illegal comes before any full check (R165). -/
def execIllegalP (pData : Elem) (s : State) : Result :=
  operate (.illegalP pData) s fun s => raise .producer .illegal s

end Sys2Proof.Machine
end

