-- ==== Sys2Proof/Machine/Dispatch.lean ====
section
/-! DEFINITION. One arm per row of the opcode table. -/

namespace Sys2Proof.Machine

def exec (i : Instr) (s : State) : Host.Outcome State Fault Refusal :=
  match i with
  | .nopP pData => Sys2Proof.Machine.execNopP pData s
  | .push pData => Sys2Proof.Machine.execPush pData s
  | .pendingP pData => Sys2Proof.Machine.execPendingP pData s
  | .illegalP pData => Sys2Proof.Machine.execIllegalP pData s
  | .nopC => Sys2Proof.Machine.execNopC s
  | .pop => Sys2Proof.Machine.execPop s
  | .peek => Sys2Proof.Machine.execPeek s
  | .pendingC => Sys2Proof.Machine.execPendingC s
  | .nopI hasPending frame => Sys2Proof.Machine.execNopI hasPending frame s
  | .ingest hasPending frame => Sys2Proof.Machine.execIngest hasPending frame s

end Sys2Proof.Machine
end

