-- ==== Sys2Proof/Machine/Cycle.lean ====
section
/-! DEFINITION. A request as it stands on its port, the two ports in one SYNC cycle (R57), the ASYNC crossing (R30,
R64 to R66) and a clock edge of one domain. -/

namespace Sys2Proof.Machine

/-- The port a domain's request comes on, in a build (R80). -/
def portOf (b : Build) : Domain → Port
  | .producer => if b.ingestPresent then .ingest else .producer
  | .consumer => .consumer

/-- Decode the request word on a port and perform it. -/
def runRequest (p : Port) (bits : Nat) (s : State) : Result :=
  match decode s.build p bits with
  | .ok i => exec i s
  | .rejected .portAbsent => .refused .portAbsent
  | .rejected .requestTooWide => .refused .requestTooWide

/-- R57: the writes of the two sides merged at the edge. Both operations have read the state before the edge; the
producer side wrote all but `popped`, and the consumer side `popped`. -/
def mergeCycle (producerAfter consumerAfter : State) : State :=
  { producerAfter with
    popped := consumerAfter.popped
    resp := { producerAfter.resp with consumer := consumerAfter.resp.consumer } }

/-- R57: a producer-side request and a consumer request in the same SYNC cycle. In ASYNC mode the two sides never
share an edge (R166). -/
def runSameCycle (producerBits consumerBits : Nat) (s : State) : Result :=
  match s.build.clocking with
  | .async => .refused .noSharedEdge
  | .sync =>
    match runRequest (portOf s.build .producer) producerBits s, runRequest .consumer consumerBits s with
    | .next t, .next u => .next (mergeCycle t u)
    | .next _, .fault f => .fault f
    | .next _, .refused r => .refused r
    | .fault f, _ => .fault f
    | .refused r, _ => .refused r

/-- R64: `sample(popped_gray)`, or `sample(pushed_gray)` in the consumer domain: the register's value, or by the draw
`late` what it held before a change near the edge. -/
def sampled (d : Domain) (late : Bool) (s : State) : Nat :=
  match d, late with
  | .producer, false => s.poppedGray
  | .producer, true => s.poppedGrayOld
  | .consumer, false => s.pushedGray
  | .consumer, true => s.pushedGrayOld

/-- R30: at each edge of a domain the first stage captures `sample` and each later stage the one before it. A change
that this edge has captured is near no later edge. In SYNC mode there is no chain. -/
def capture (d : Domain) (late : Bool) (s : State) : State :=
  match s.build.clocking, d with
  | .sync, _ => s
  | .async, .producer =>
    { s with rsync := sampled .producer late s :: s.rsync.dropLast, poppedGrayOld := s.poppedGray }
  | .async, .consumer =>
    { s with wsync := sampled .consumer late s :: s.wsync.dropLast, pushedGrayOld := s.pushedGray }

/-- The Gray code a stage holds once the last stage of its chain shows `target`: a stage that lagged further behind
`remote` than `target` does is taken along (notes/assumptions/9). -/
def catchUp (C cw remote target g : Nat) : Nat :=
  if occ C remote target < occ C remote (bin cw g) then gray target else g

/-- R65, R66: a sync step of length `k`, legal when `1 <= k <= occ(remote, view)`: the side's view moves forward by
`k`. -/
def syncBy (d : Domain) (k : Nat) (s : State) : Result :=
  match d with
  | .producer =>
    if 1 ≤ k ∧ k ≤ occ s.cap s.popped s.poppedSeenP then
      let f := catchUp s.cap s.build.counterWidth s.popped (advance s.cap s.poppedSeenP k)
      .next { s with rsync := s.rsync.map f, poppedGrayOld := f s.poppedGrayOld }
    else .refused .illegalSyncStep
  | .consumer =>
    if 1 ≤ k ∧ k ≤ occ s.cap s.pushed s.pushedSeenC then
      let f := catchUp s.cap s.build.counterWidth s.pushed (advance s.cap s.pushedSeenC k)
      .next { s with wsync := s.wsync.map f, pushedGrayOld := f s.pushedGrayOld }
    else .refused .illegalSyncStep

/-- A sync step of a side (R170), where the block is a legal ASYNC build out of reset. -/
def syncStep (d : Domain) (k : Nat) (s : State) : Result :=
  guarded s <|
    match s.build.clocking with
    | .sync => .refused .noCrossing
    | .async => if s.rstP = .released ∧ s.rstC = .released then syncBy d k s else .refused .inReset

/-- The reset line of a domain. -/
def resetLineOf (d : Domain) (s : State) : ResetLine :=
  match d with
  | .producer => s.rstP
  | .consumer => s.rstC

/-- A clock edge of a domain whose port carries no request: the port is idle (R175), so it answers as to its NOP
(R101, R121, R142), or the edge resets the domain (R180). It records the response of this domain's port alone, in SYNC
mode too, where the clock is that of every port (notes/assumptions/5: DESIGN CHOICE). -/
def idleEdge (d : Domain) (late : Bool) (s : State) : Result :=
  guarded s <|
    match resetLineOf d s with
    | .asserted _ => .next (respondUnspecified (portOf s.build d) (resetEdge d s))
    | .released => .next (capture d late (respond (portOf s.build d) .ok none s s))

/-- One clock edge of a domain with the request its port carries: the operation and the crossing both read the state
before the edge. An edge with `rst` asserted shifts no chain (R180, R181). -/
def runEdge (d : Domain) (bits : Option Nat) (late : Bool) (s : State) : Result :=
  match bits with
  | none => idleEdge d late s
  | some w =>
    match runRequest (portOf s.build d) w s with
    | .next t => .next (if resetLineOf d s = .released then capture d late t else t)
    | .fault f => .fault f
    | .refused r => .refused r

end Sys2Proof.Machine
end

