-- ==== Sys2Proof/Machine/Reset.lean ====
section
/-! DEFINITION. The reset input `rst` (R180 to R183). -/

namespace Sys2Proof.Machine

/-- A line that is asserted, or stays so. -/
def ResetLine.assert : ResetLine → ResetLine
  | .released => .asserted false
  | .asserted seen => .asserted seen

/-- R180: `rst` is asserted, in both domains. -/
def assertReset (s : State) : State := { s with rstP := s.rstP.assert, rstC := s.rstC.assert }

/-- The domain has had an edge with `rst` asserted, or is out of reset already. -/
def ResetLine.mayRelease : ResetLine → Bool
  | .released => true
  | .asserted seen => seen

/-- R181: `rst` is released, in ASYNC mode in one domain, once each domain has had an edge with it asserted. R181 words
that hold for ASYNC mode only; that SYNC mode asks for it too, and that an early release is refused in either mode, is
the model's choice (notes/assumptions/13). -/
def releaseReset (d : Domain) (s : State) : Result :=
  if s.rstP.mayRelease && s.rstC.mayRelease then
    match s.build.clocking, d with
    | .sync, _ => .next { s with rstP := .released, rstC := .released }
    | .async, .producer => .next { s with rstP := .released }
    | .async, .consumer => .next { s with rstC := .released }
  else .refused .resetReleasedEarly

end Sys2Proof.Machine
end

