-- ==== Sys2Proof/Machine/Script.lean ====
section
/-! DEFINITION. Agent scripts: the script forms of R89, the agent-local steps of R90, the pseudo-instructions of R91,
and one step of an agent. -/

namespace Sys2Proof.Machine

/-! R89: the script forms of the block operations. -/

def scriptNopP : Line := .op (.nopP 0)
def scriptPush (v : Elem) : Line := .op (.push v)
def scriptPendingP : Line := .op (.pendingP 0)
def scriptNopC : Line := .op .nopC
def scriptPop : Line := .op .pop
def scriptPeek : Line := .op .peek
def scriptPendingC : Line := .op .pendingC
def scriptNopI : Line := .op (.nopI false 0)
def scriptIngest (f : Nat) : Line := .op (.ingest true f)
def scriptIngestNone : Line := .op (.ingest false 0)

/-! R91: the pseudo-instructions; `base` is the position of the expansion's first line. -/

/-- `DRAIN`, the source's TX Drain. -/
def scriptDrain (base : Nat) : List Line :=
  [scriptPendingC, .setNCnt, .bZn (base + 6), scriptPop, .decN, .jmp (base + 2)]

/-- `POPALL`, the source's Diagnostics loop. -/
def scriptPopAll (base : Nat) : List Line := [scriptPop, .bOk base]

/-- `FILL v1, ..., vk`. -/
def scriptFill (vs : List Elem) : List Line := vs.map scriptPush

namespace Agent

/-- The script issues only operations of the agent's own port, with operands that fit it, in a build (R86, R140,
R169). -/
def scriptOnPort (b : Build) (a : Agent) : Bool :=
  a.script.all fun l =>
    match l with
    | .op i => decide (i.port = a.port) && i.wellFormed b
    | _ => true

/-- `ip` moves to a label, or to the next line. -/
def branch (a : Agent) (taken : Bool) (label : Nat) : Agent :=
  { a with ip := if taken then label else a.ip + 1 }

/-- An agent-local step of R90; a block operation is no local step. -/
def localStep (l : Line) (a : Agent) : Agent :=
  match l with
  | .op _ => a
  | .bOk label => a.branch (a.st == .ok) label
  | .bFull label => a.branch (a.st == .full) label
  | .bEmpty label => a.branch (a.st == .emptyOrNoMessage) label
  | .bNoMsg label => a.branch (a.st == .emptyOrNoMessage) label
  | .setNCnt => { a with n := a.cnt, ip := a.ip + 1 }
  | .setN k => { a with n := k, ip := a.ip + 1 }
  | .decN => { a with n := a.n - 1, ip := a.ip + 1 }
  | .bZn label => a.branch (a.n == 0) label
  | .bNz label => a.branch (a.n != 0) label
  | .jmp label => { a with ip := label }
  | .halt => { a with halted := true }

/-- R89: what the agent keeps of its port's response to a block operation: `st` always, `cnt` of a PENDING, `dat` of a
successful POP or PEEK, `log` of a successful POP. A POP or PEEK is successful where its response carries an element;
one that was ignored under `rst` carries none, so it keeps `dat` and `log` even where its unspecified status reads OK
(notes/assumptions/27: DESIGN CHOICE, the spec does not say whether it counts as successful). -/
def observe (i : Instr) (resp : Responses) (a : Agent) : Agent :=
  let a := { a with ip := a.ip + 1 }
  match i.port with
  | .producer =>
    match resp.producer with
    | none => a
    | some r => { a with st := r.status, cnt := if i matches .pendingP _ then r.count else a.cnt }
  | .consumer =>
    match resp.consumer with
    | none => a
    | some r =>
      { a with
        st := r.status
        cnt := if i matches .pendingC then r.count else a.cnt
        dat := if r.data.isSome then r.data else a.dat
        log := if i matches .pop then a.log ++ r.data.toList else a.log }
  | .ingest =>
    match resp.ingest with
    | none => a
    | some r => { a with st := r.status }

end Agent

/-- R184: no two agents drive one port. -/
def portsDistinct (s : State) : Bool := decide ((s.agents.map Agent.port).Nodup)

/-- An agent drives the port. It still does when its script has halted, so outside requests stay refused, and no input
starts the script again: a further receive event is a longer script (notes/assumptions/21: DESIGN CHOICE; 95 P3 has "one
more ISR run" and does not say how it comes about). -/
def portDriven (p : Port) (s : State) : Bool := s.agents.any fun a => a.port == p

/-- The agent at a position, replaced. -/
def setAgent (k : Nat) (a : Agent) (s : State) : State := { s with agents := s.agents.set k a }

/-- One step of an agent: its current line, where it has one. A script that has reached its end is ended as though
HALT followed (R90). -/
def agentStep (k : Nat) (s : State) : Result :=
  match s.agents[k]? with
  | none => .refused .noSuchAgent
  | some a =>
    if a.scriptOnPort s.build = false then .refused .scriptNotOnPort
    else if a.halted then .next s
    else match a.script[a.ip]? with
      | none => .next (setAgent k { a with halted := true } s)
      | some (.op i) =>
        match exec i s with
        | .next t => .next (setAgent k (a.observe i t.resp) t)
        | .fault f => .fault f
        | .refused r => .refused r
      | some l => .next (setAgent k (a.localStep l) s)

end Sys2Proof.Machine
end

