-- ==== Sys2Proof/Machine/Inputs.lean ====
section
/-! DEFINITION. What one input does (R170), and how a table word is placed as the next request. -/

namespace Sys2Proof.Machine

/-- An outside request comes on a port that no agent drives (R184). -/
def fromOutside (p : Port) (s : State) (r : Result) : Result :=
  if portDriven p s then .refused .sharedPort else r

/-- Any step of the block and the agents around it. A composition in which two agents drive one port is refused
(R184), and so is a build that is no block (R7); a state the spec gives no step is a fault, whatever the step (R39). -/
def composed (s : State) (r : Result) : Result :=
  if portsDistinct s = false then .refused .sharedPort else guarded s r

/-- A step with no input: every port is idle, and the state holds (R175). It records no response (notes/assumptions/24:
DESIGN CHOICE), and it is no clock edge: while `rst` is asserted it resets no domain and lets none be released, which only
an edge does (notes/assumptions/24 and 13: DESIGN CHOICE). -/
def idleCycle (s : State) : Result := composed s (.next s)

/-- One input, in the state it finds. -/
def takeInput (e : Input) (s : State) : Result :=
  composed s <|
    match e with
    | .request p bits => fromOutside p s (runRequest p bits s)
    | .sameCycle producerBits consumerBits =>
      fromOutside (portOf s.build .producer) s (fromOutside .consumer s (runSameCycle producerBits consumerBits s))
    | .edge d none late => runEdge d none late s
    | .edge d (some bits) late => fromOutside (portOf s.build d) s (runEdge d (some bits) late s)
    | .agent k => agentStep k s
    | .sync d k => syncStep d k s
    | .rstAssert => .next (assertReset s)
    | .rstRelease d => releaseReset d s

/-- A table word as the next request on `tableWordPort`, from outside: that port is built, no agent drives it, and the
block is out of reset; nothing else changes (notes/assumptions/15). A build that is no block stays as it is, and its
next step is refused (R7). -/
def placeTableWord (nbits w : Nat) (s : State) : State :=
  { s with
    build := if s.build.legal then { s.build with ingestPresent := false } else s.build
    agents := s.agents.filter fun a => decide (a.port = .consumer)
    rstP := .released
    rstC := .released
    inputs := .request tableWordPort (tableWordBits nbits w) :: s.inputs }

end Sys2Proof.Machine
end

