-- ==== Sys2Proof/Machine/Step.lean ====
section
/-! DEFINITION. One step of the machine: the next input. -/

namespace Sys2Proof.Machine

/-- One step: the next input takes effect, or with no input the idle cycle. -/
def step (s : State) : Host.Outcome State Fault Refusal :=
  match s.inputs with
  | [] => idleCycle s
  | e :: rest => takeInput e { s with inputs := rest }

/-- The state with a table word standing on its port, so that the very next step performs it. The block fetches
nothing (R33): a request comes from outside (notes/assumptions/15). -/
def State.withFetchWord (s : State) (nbits w : Nat) : State := placeTableWord nbits w s

end Sys2Proof.Machine
end

