-- ==== Sys2Proof/Machine/Isr.lean ====
section
/-! DEFINITION. R185: an ISR script that waits on FULL never ends while the consumer cannot run. The model lets the
consumer run at any time, so the hang is no outcome of a step; it is flagged here (notes/assumptions/23). The script runs
with the steps that are not the consumer's: its own, and in ASYNC mode the producer side's sync steps (R65, R170). -/

namespace Sys2Proof.Machine

/-- Where an ISR script stands while the consumer does not run: what the agent's branches can tell, the free slots in the
producer's view, and in ASYNC mode the pops that the view has yet to see. -/
structure Alone where
  ip : Nat
  st : Status
  n : Int
  halted : Bool
  room : Nat
  unseen : Nat
  deriving DecidableEq, Repr

namespace Alone

/-- The agent as it stands. -/
def agent (x : Alone) (a : Agent) : Agent := { a with ip := x.ip, st := x.st, n := x.n, halted := x.halted }

/-- The status an ingest operation gets (R143). -/
def status (i : Instr) (room : Nat) : Status :=
  match i with
  | .ingest true _ => if room = 0 then .full else .ok
  | .ingest false _ => .emptyOrNoMessage
  | _ => .ok

/-- The free slots in the producer's view after it (R143). -/
def roomAfter (i : Instr) (room : Nat) : Nat :=
  match i with
  | .ingest true _ => room - 1
  | _ => room

/-- One step of the script (R89, R90). A counter below 0 is kept at -1: no branch tells it from another. -/
def turn (a : Agent) (x : Alone) : Alone :=
  if x.halted then x
  else match a.script[x.ip]? with
    | none => { x with halted := true }
    | some (.op i) => { x with ip := x.ip + 1, st := status i x.room, room := roomAfter i x.room }
    | some l =>
      let b := (x.agent a).localStep l
      { x with ip := b.ip, st := b.st, n := max b.n (-1), halted := b.halted }

/-- R65: a sync step of length 1; a longer one is so many of these. -/
def seeOne (x : Alone) : Alone := { x with room := x.room + 1, unseen := x.unseen - 1 }

/-- What may happen next. -/
def nexts (a : Agent) (x : Alone) : List Alone := x.turn a :: if x.unseen = 0 then [] else [x.seeOne]

/-- How the ring may stand when the script starts: with any number of free slots, and in ASYNC mode with any of them not
seen yet. -/
def starts (b : Build) (a : Agent) : List Alone :=
  (List.range (b.capacity + 1)).flatMap fun room =>
    (List.range (match b.clocking with | .sync => 1 | .async => b.capacity - room + 1)).map fun unseen =>
      { ip := a.ip, st := a.st, n := max a.n (-1), halted := a.halted, room := room, unseen := unseen }

/-- `seen` with all that may come to be from `frontier`, as far as `fuel` rounds take it. -/
def explore (a : Agent) : Nat → List Alone → List Alone → List Alone
  | 0, _, seen => seen
  | fuel + 1, frontier, seen =>
    match (frontier.flatMap (nexts a)).foldl (fun new y => if y ∈ seen ∨ y ∈ new then new else y :: new) [] with
    | [] => seen
    | y :: ys => explore a fuel (y :: ys) (y :: ys ++ seen)

/-- Whatever comes next is in the list already. -/
def closed (a : Agent) (xs : List Alone) : Bool := xs.all fun x => (x.nexts a).all fun y => decide (y ∈ xs)

/-- The script ends within `fuel` steps of its own. -/
def ends (a : Agent) : Nat → Alone → Bool
  | 0, x => x.halted
  | fuel + 1, x => x.halted || ends a fuel (x.turn a)

/-- The largest value a script sets its loop counter to. -/
def largestCount (a : Agent) : Nat :=
  a.script.foldl (fun m l => match l with | .setN k => max m k | _ => m) (max a.cnt a.n.toNat)

/-- As many steps as there are positions, labels beyond the script's end among them, statuses, counts, and numbers of free
and of unseen slots, halted or not. -/
def fuel (b : Build) (a : Agent) : Nat :=
  (2 * a.script.length + 2) * 4 * (largestCount a + 2) * (b.capacity + 1) * (b.capacity + 1) * 2

end Alone

/-- R185: the script may come to a point from which it ends by no step but the consumer's. Once every sync step has been
taken, that is a point from which its own steps never end it; they stay among the points reached, so as many steps as
there are points tell. -/
def isrHangs (b : Build) (a : Agent) : Bool :=
  let reached := Alone.explore a (Alone.fuel b a) (Alone.starts b a) (Alone.starts b a)
  !Alone.closed a reached || reached.any fun x => x.unseen == 0 && !x.ends a reached.length

end Sys2Proof.Machine
end

