-- ==== Sys2Proof/Safety.lean ====
section
/-! DEFINITION. What the claims are stated in: the block ready for a request, its invariant (R26, R30, R36, R37, R67),
the queue it holds (R38), a safe step, and the ISR scripts of R185 that hang. -/

namespace Sys2Proof.Machine

/-- The whole block is out of reset. -/
abbrev Running (s : State) : Prop := s.rstP = .released ∧ s.rstC = .released

/-- A port performs the requests that fit it: a legal build that has the port, out of reset, in a state the spec gives
a step (R7, R39, R80, R180). -/
abbrev Ready (p : Port) (s : State) : Prop :=
  s.build.legal = true ∧ s.build.hasPort p = true ∧ Running s ∧ ringFault s = none

/-- R38: the ring's contents, oldest first. -/
def contents (s : State) : List (Option Elem) :=
  (List.range s.occupancy).map fun k => s.slot (idx s.cap (advance s.cap s.popped k))

/-- What the reset lines say of the block: a domain that has had its edge under `rst` holds its reset values, while one
domain only is out of reset both do, until the first edge under `rst` the block is as it was out of reset, until the
other domain's edge that domain is, and in SYNC mode the lines agree (R180, R181). -/
abbrev ResetLinesInv (s : State) : Prop :=
  (s.rstP = .asserted true → ProducerSideReset s)
    ∧ (s.rstC = .asserted true → ConsumerSideReset s)
    ∧ (s.rstP = .released → s.rstC ≠ .released → s.rstC = .asserted true ∧ ProducerSideReset s)
    ∧ (s.rstC = .released → s.rstP ≠ .released → s.rstP = .asserted true ∧ ConsumerSideReset s)
    ∧ (s.rstP = .asserted false → s.rstC = .asserted false → RunningInv s)
    ∧ (s.rstP = .asserted true → s.rstC = .asserted false → midReset s = true)
    ∧ (s.rstP = .asserted false → s.rstC = .asserted true → midReset s = true)
    ∧ (s.build.clocking = .sync → s.rstP = s.rstC)

/-- The invariant of the block: a legal build (R7), a canonical slot store (R50), counters in range (R22, R23), what
holds out of reset, and what the reset lines say. -/
abbrev BlockInv (s : State) : Prop :=
  s.build.legal = true ∧ Memory.wf s.cap s.build.width s.slots = true ∧ s.pushed < 2 * s.cap ∧ s.popped < 2 * s.cap
    ∧ (Running s → RunningInv s) ∧ ResetLinesInv s

/-- The state that the first edge of an asserted `rst` leaves of a block that met its invariant out of reset (R180,
R181). -/
def AfterFirstResetEdge (s : State) : Prop :=
  ∃ (u : State) (d : Domain), BlockInv u ∧ Running u ∧ s = resetEdge d (assertReset u)

/-- A port of a block that meets its invariant, out of reset. -/
abbrev Live (p : Port) (s : State) : Prop := BlockInv s ∧ Running s ∧ s.build.hasPort p = true

/-- The two states hold the same ring and event counters. -/
abbrev SameRing (s t : State) : Prop :=
  s.slots = t.slots ∧ s.pushed = t.pushed ∧ s.popped = t.popped ∧ s.seq = t.seq ∧ s.dropCount = t.dropCount

/-! Schedules: any interleaving of operations and sync steps (R56, R170), with what the ring accepted and returned. -/

/-- One event of a schedule. -/
inductive Event where
  /-- An operation on its port. -/
  | op (i : Instr)
  /-- A sync step of a side. -/
  | sync (d : Domain) (k : Nat)
  deriving DecidableEq, Repr

/-- What an event does. -/
def perform (e : Event) (s : State) : Result :=
  match e with
  | .op i => exec i s
  | .sync d k => syncStep d k s

/-- The element an event added to the ring, if it added one: of a PUSH that answered OK, the element; of an INGEST that
answered OK, the stamped frame (R143). -/
def accepted (e : Event) (before after : State) : List Elem :=
  match e with
  | .op (.push v) => if after.resp.producer.map (·.status) = some .ok then [v] else []
  | .op (.ingest true f) =>
    if after.resp.ingest.map (·.status) = some .ok then [stampedElement f (nextStamp before)] else []
  | _ => []

/-- The element an event returned and removed: the data of a POP that answered OK. -/
def returned (e : Event) (after : State) : List Elem :=
  match e with
  | .op .pop => (after.resp.consumer.bind (·.data)).toList
  | _ => []

/-- A schedule from a state: the last state, the elements accepted and the elements returned, each in order; `none` if
some event gave no next state. -/
def trace : List Event → State → Option (State × List Elem × List Elem)
  | [], s => some (s, [], [])
  | e :: es, s =>
    match perform e s with
    | .next t =>
      match trace es t with
      | some (u, acc, ret) => some (u, accepted e s t ++ acc, returned e t ++ ret)
      | none => none
    | .fault _ => none
    | .refused _ => none

/-- A run of clock edges of one domain, each with the request its port carries, if any, and its draw (R30, R64). -/
def edges (d : Domain) : List (Option Nat × Bool) → State → Result
  | [], s => .next s
  | (bits, late) :: rest, s =>
    match runEdge d bits late s with
    | .next t => edges d rest t
    | .fault f => .fault f
    | .refused r => .refused r

/-! Weak fairness of sync steps (R65 law 3, R66, 93 entry I9). A fairness is a promise about unending runs, so it is no
part of a step: a claim that a view gets somewhere takes it as a premise (notes/assumptions/26). -/

/-- An unending run: at each moment one input, or none, takes effect. -/
def IsRun (schedule : Nat → Option Input) (run : Nat → State) : Prop :=
  ∀ n, step { run n with inputs := (schedule n).toList } = .next (run (n + 1))

/-- A side's view of the other side's counter (R65, R66). -/
def viewOf (d : Domain) (s : State) : Nat :=
  match d with
  | .producer => s.poppedSeenP
  | .consumer => s.pushedSeenC

/-- The counter that a side sees: the producer side sees `popped`, the consumer side `pushed`. -/
def remoteOf (d : Domain) (s : State) : Nat :=
  match d with
  | .producer => s.popped
  | .consumer => s.pushed

/-- R65 law 2: a sync step of the side is enabled, by some length. SYNC mode has none (R30, R170). -/
def SyncEnabled (d : Domain) (s : State) : Prop :=
  s.build.clocking = .async ∧ Running s ∧ 1 ≤ occ s.cap (remoteOf d s) (viewOf d s)

/-- R65 law 3, R66: the sync steps of a side are weakly fair in a run: they are not enabled from some moment on without
one ever being taken. A clock edge of the side that moves its view is a sync step too (R65). -/
def WeaklyFair (d : Domain) (run : Nat → State) : Prop :=
  ∀ n, (∀ m, n ≤ m → SyncEnabled d (run m)) → ∃ m, n ≤ m ∧ viewOf d (run (m + 1)) ≠ viewOf d (run m)

/-- A run the spec's laws admit: every step taken, and the sync steps of both sides weakly fair. -/
def FairRun (schedule : Nat → Option Input) (run : Nat → State) : Prop :=
  IsRun schedule run ∧ WeaklyFair .producer run ∧ WeaklyFair .consumer run

/-- A step that ends in no fault. -/
def SafeStep (s : State) : Prop := ∀ f : Fault, step s ≠ .fault f

/-! R185: hanging ISR scripts, as the rule has it; `isrHangs` is the check. -/

/-- What may come of an ISR script while the consumer does not run: steps of its own, and sync steps. -/
inductive AloneRun (a : Agent) : Alone → Alone → Prop where
  | here (x : Alone) : AloneRun a x x
  | turn {x y : Alone} (h : AloneRun a (x.turn a) y) : AloneRun a x y
  | sync {x y : Alone} (hx : 0 < x.unseen) (h : AloneRun a x.seeOne y) : AloneRun a x y

/-- R185: the script may come to a point from which it can end only by a step of the consumer, or by none. -/
def IsrHang (b : Build) (a : Agent) : Prop :=
  ∃ x ∈ Alone.starts b a, ∃ y, AloneRun a x y ∧ ∀ z, AloneRun a y z → z.halted = false

end Sys2Proof.Machine
end

