-- ==== Sys2Proof/Certificates/Slice0/Obligations.lean ====
section
/-! DEFINITION. The statements about the model, by family: encoding, helper arithmetic, builds, reset, the operations,
frames, whole-machine rules, the crossing, agents and steps. Each docstring names the rule of spec/ it formalises. -/

open Sys2Proof Sys2Proof.Machine

/-! ## Encoding (30_encoding.md) -/

/-- R80 to R83: the decoder gives back every request a build's ports can carry, with every operand at every value. -/
def Obligations.EncodedInstrDecodesBack : Prop :=
  ∀ (b : Build) (i : Instr), i.wellFormed b = true → decode b i.port (encode i) = .ok i

/-- R80 to R83: a decoded request encodes back to its own bits, on its own port, and fits it: no bit is dropped. -/
def Obligations.DecodedRequestEncodesBack : Prop :=
  ∀ (b : Build) (p : Port) (w : Nat) (i : Instr), decode b p w = .ok i →
    encode i = w ∧ i.port = p ∧ i.wellFormed b = true

/-- R86, R88: every bit pattern of a present port's fixed width is an operation. A request is rejected exactly when its
port is absent or it is too wide: that `PREQ` is absent with the front-end is R86 and R140; that `IREQ` is without it, and
that a word wider than its port is rejected, is the model's reading of R80 and R88 (notes/assumptions/17: DEDUCED). -/
def Obligations.PresentPortDecodesEveryPattern : Prop :=
  ∀ (b : Build) (p : Port) (w : Nat),
    (b.hasPort p = true → w < 2 ^ b.requestWidth p → ∃ i, decode b p w = .ok i)
      ∧ (b.hasPort p = false → decode b p w = .rejected .portAbsent)
      ∧ (b.hasPort p = true → 2 ^ b.requestWidth p ≤ w → decode b p w = .rejected .requestTooWide)

/-- Words written out from R80 to R83, one or more per port. -/
def Obligations.WrittenOutWordsDecode : Prop :=
  decode (Build.tx 4 8 .sync 2) .producer 0x169 = .ok (.push 0x5A)
    ∧ decode (Build.tx 4 8 .sync 2) .producer 0x3FF = .ok (.illegalP 0xFF)
    ∧ decode (Build.tx 4 8 .sync 2) .producer 0x002 = .ok (.pendingP 0)
    ∧ decode (Build.tx 4 8 .sync 2) .consumer 1 = .ok .pop
    ∧ decode (Build.tx 4 8 .sync 2) .consumer 2 = .ok .peek
    ∧ decode (Build.rx 40 .sync 2) .ingest 0x2AF = .ok (.ingest true 0xAB)
    ∧ decode (Build.rx 40 .sync 2) .ingest 0x001 = .ok (.ingest false 0)

/-! ## Helper arithmetic and Gray code (R6, R9, R51, R62, R63) -/

/-- R9: on counter values `inc`, `idx` and `occ` are the modular functions the rule names. -/
def Obligations.CounterHelpersAreModular : Prop :=
  ∀ C a b : Nat, 1 ≤ C → a < 2 * C → b < 2 * C →
    inc C a = (a + 1) % (2 * C) ∧ idx C a = a % C ∧ (occ C a b : Int) = ((a : Int) - (b : Int)) % (2 * (C : Int))

/-- R51: each slot index occurs exactly twice in a counter's cycle, at `x` and at `x + C`. -/
def Obligations.SlotIndexOccursExactlyTwice : Prop :=
  ∀ C i x : Nat, i < C → x < 2 * C → (idx C x = i ↔ x = i ∨ x = i + C)

/-- R62: consecutive counter values, the wrap included, differ in exactly one bit of their Gray code. -/
def Obligations.GrayNeighboursDifferInOneBit : Prop :=
  ∀ w x : Nat, 1 ≤ w → x < 2 ^ w → ∃ j, j < w ∧ gray x ^^^ gray ((x + 1) % 2 ^ w) = 2 ^ j

/-- R63: the running XOR from the top bit, and `bin(gray(b)) = b`. -/
def Obligations.GrayDecodingInvertsGray : Prop :=
  ∀ w g : Nat, g < 2 ^ w →
    (1 ≤ w → (bin w g).testBit (w - 1) = g.testBit (w - 1))
      ∧ (∀ j, j + 1 < w → (bin w g).testBit j = ((bin w g).testBit (j + 1) ^^ g.testBit j))
      ∧ bin w (gray g) = g

/-! ## Builds and ports (R7, R39, R69, R86, R140, R184) -/

/-- R6, R62, R69: `clog2(n)` is the least `k` with `2^k >= n`; in ASYNC mode the legal capacities are the powers of
two, in SYNC mode any capacity from 1 up; the other bounds are those of R6. -/
def Obligations.LegalBuildsAreThoseOfTheParameterTable : Prop :=
  (∀ n k : Nat, clog2 n ≤ k ↔ n ≤ 2 ^ k)
    ∧ ∀ b : Build, b.legal = true ↔
      1 ≤ b.capacity ∧ 1 ≤ b.width ∧ 2 ≤ b.nSync ∧ (b.clocking = .async → ∃ k, b.capacity = 2 ^ k)
        ∧ (b.ingestPresent = true → 33 ≤ b.width)

/-- R7: a block of an illegal build is refused every operation and every step, whatever its inputs. R86, R140: with the
front-end built `PREQ` does not exist, and an operation of it is refused. R80: without it `IREQ` does not exist; that an
operation of it is refused, and where either refusal falls, is the model's reading (notes/assumptions/17: DEDUCED). -/
def Obligations.IllegalBuildsAndAbsentPortsAreRefused : Prop :=
  ∀ (i : Instr) (s : State),
    (s.build.legal = false → exec i s = .refused .illegalBuild)
      ∧ (s.build.legal = false → portsDistinct s = true → step s = .refused .illegalBuild)
      ∧ (s.build.legal = true → s.build.ingestPresent = true → i.port = .producer → exec i s = .refused .portAbsent)
      ∧ (s.build.legal = true → s.build.ingestPresent = false → i.port = .ingest → exec i s = .refused .portAbsent)

/-- Out of reset, every stop of an operation in a legal build has one of these reasons, the first that applies, and in
every other state it completes (R39; 93 entry I1). The refusals `portAbsent` and `operandTooWide` are the model's reading
of R80 (notes/assumptions/17: DEDUCED), and so are the faults of `ringFault` besides R39's (notes/assumptions/12). -/
def Obligations.StopsOutOfResetHaveTheseReasons : Prop :=
  ∀ (i : Instr) (s : State), Running s →
    let unwritten := (i = .pop ∨ i = .peek) ∧ s.cCount ≠ 0 ∧ s.head = none
    (s.build.legal = true → s.build.hasPort i.port = false → exec i s = .refused .portAbsent)
      ∧ (s.build.legal = true → s.build.hasPort i.port = true → i.fits s.build = false →
          exec i s = .refused .operandTooWide)
      ∧ (∀ f, s.build.legal = true → i.wellFormed s.build = true → ringFault s = some f → exec i s = .fault f)
      ∧ (s.build.legal = true → i.wellFormed s.build = true → ringFault s = none → unwritten →
          exec i s = .fault .slotUnwritten)
      ∧ (s.build.legal = true → i.wellFormed s.build = true → ringFault s = none → ¬ unwritten →
          ∃ t, exec i s = .next t)

/-- R39: a state with `occ(pushed, popped) > C` is a fault and gets no step: no operation, no sync step, no clock edge,
and no step of the machine, whatever its inputs. R39 speaks of states that no run reaches: not meant is the state that the
first edge of an asserted `rst` leaves of a block that met its invariant (R181; notes/assumptions/12: DEDUCED). -/
def Obligations.OverfullStateFaults : Prop :=
  ∀ s : State, s.build.legal = true → ¬ AfterFirstResetEdge s → s.pushed < 2 * s.cap → s.popped < 2 * s.cap →
    s.cap < occ s.cap s.pushed s.popped →
    (∀ i : Instr, i.wellFormed s.build = true → exec i s = .fault .occupancyAboveCapacity)
      ∧ (portsDistinct s = true → step s = .fault .occupancyAboveCapacity)
      ∧ (∀ d k, syncStep d k s = .fault .occupancyAboveCapacity)
      ∧ (∀ d late, runEdge d none late s = .fault .occupancyAboveCapacity)

/-! ## Reset (R36, R180, R181, R183) -/

/-- R36: the state after reset, for every build (a slot has no value), and, in a legal build of either clocking, the
status outputs and the views that follow from it (R65, R66). -/
def Obligations.ResetLeavesTheListedState : Prop :=
  ∀ b : Build,
    let s := State.resetOf b
    s.pushed = 0 ∧ s.popped = 0 ∧ (∀ i, s.slot i = none) ∧ s.pushedGray = 0 ∧ s.poppedGray = 0
      ∧ (∀ g ∈ s.wsync, g = 0) ∧ (∀ g ∈ s.rsync, g = 0) ∧ s.wsync.length = b.nSync ∧ s.rsync.length = b.nSync
      ∧ s.seq = 0 ∧ s.dropCount = 0
      ∧ (b.legal = true → s.pFull = false ∧ s.pCount = 0 ∧ s.cEmpty = true ∧ s.cCount = 0 ∧ s.iSeq = 0
          ∧ s.iDrops = 0 ∧ s.poppedSeenP = 0 ∧ s.pushedSeenC = 0)

/-- The invariant holds after reset of every legal build, and so of `State.reset`. -/
def Obligations.ResetMeetsTheBlockInvariant : Prop :=
  (∀ b : Build, b.legal = true → BlockInv (State.resetOf b)) ∧ BlockInv State.reset

/-- R180, R183: from every state in the invariant, in reset or out of it, `rst` asserted, one edge of each domain, and
`rst` released leave the values of R36, and every element is lost. -/
def Obligations.ResetSequenceReturnsTheResetValues : Prop :=
  ∀ (s : State) (l₁ l₂ : Bool), BlockInv s → portsDistinct s = true →
    s.inputs = [.rstAssert, .edge .producer none l₁, .edge .consumer none l₂, .rstRelease .producer,
      .rstRelease .consumer] →
    ∃ t, Host.Core.run Sys2Proof.core 5 s = .next t ∧ Running t ∧ ProducerSideReset t ∧ ConsumerSideReset t
      ∧ t.occupancy = 0 ∧ t.build = s.build

/-- R180: while `rst` is asserted every request is ignored: no state is written beyond the reset values. In SYNC mode both
sides, in ASYNC mode the port's own side, hold them after it (the request counts as an edge of its port's clock:
notes/assumptions/14), and in ASYNC mode the other domain is as it was; `rst` stays asserted in both domains; the build,
the agents, the inputs and the other ports' responses are unchanged. The port's own response is unspecified, so the
statement says nothing of it but that `c_data` carries no element. -/
def Obligations.RequestUnderResetIsIgnored : Prop :=
  ∀ (i : Instr) (s : State) (p c : Bool), s.build.legal = true → i.wellFormed s.build = true → stateFault s = none →
    s.rstP = .asserted p → s.rstC = .asserted c →
    ∃ t, exec i s = .next t
      ∧ t.build = s.build ∧ t.agents = s.agents ∧ t.inputs = s.inputs
      ∧ (s.build.clocking = .sync → ProducerSideReset t ∧ ConsumerSideReset t
          ∧ t.rstP = .asserted true ∧ t.rstC = .asserted true)
      ∧ (i.port = .consumer → ConsumerSideReset t ∧ t.rstC = .asserted true
          ∧ (s.build.clocking = .async →
              t = { s with popped := t.popped, poppedGray := t.poppedGray, poppedGrayOld := t.poppedGrayOld,
                           wsync := t.wsync, rstC := t.rstC, resp := t.resp, draws := t.draws })
          ∧ t.resp.producer = s.resp.producer ∧ t.resp.ingest = s.resp.ingest
          ∧ ∃ r, t.resp.consumer = some r ∧ r.data = none)
      ∧ (i.port ≠ .consumer → ProducerSideReset t ∧ t.rstP = .asserted true
          ∧ (s.build.clocking = .async →
              t = { s with slots := t.slots, pushed := t.pushed, pushedGray := t.pushedGray,
                           pushedGrayOld := t.pushedGrayOld, rsync := t.rsync, seq := t.seq,
                           dropCount := t.dropCount, rstP := t.rstP, resp := t.resp, draws := t.draws })
          ∧ t.resp.consumer = s.resp.consumer
          ∧ (i.port = .producer → t.resp.ingest = s.resp.ingest)
          ∧ (i.port = .ingest → t.resp.producer = s.resp.producer))

/-- R181: a request while one domain only is out of reset is refused; and so is a release of `rst` before each domain has
had an edge with it asserted. R181 asks for that hold in ASYNC mode; that an early release is refused, and in SYNC mode
too, is the model's choice (notes/assumptions/13: DESIGN CHOICE). -/
def Obligations.HalfResetRequestsAndEarlyReleasesAreRefused : Prop :=
  (∀ (i : Instr) (s : State), s.build.legal = true → i.wellFormed s.build = true → stateFault s = none →
      (s.rstP = .released ∧ s.rstC ≠ .released ∨ s.rstP ≠ .released ∧ s.rstC = .released) →
      exec i s = .refused .inReset)
    ∧ (∀ (d : Domain) (s : State), (s.rstP = .asserted false ∨ s.rstC = .asserted false) →
      releaseReset d s = .refused .resetReleasedEarly)

/-! ## Producer operations (40_producer_ops.md) -/

/-- R101: NOP_P in any state gives OK and changes nothing. -/
def Obligations.NopPAnswersOkAndChangesNothing : Prop :=
  ∀ (v : Elem) (s : State), Ready .producer s → v < 2 ^ s.build.width →
    decode s.build .producer (4 * v) = .ok (.nopP v)
      ∧ exec (.nopP v) s = .next { s with resp := { s.resp with
          producer := some { status := .ok, count := occ s.cap s.pushed s.poppedView, full := s.pFull } } }

/-- R102: PUSH, both cases, with what the outputs show after the edge, and no side effect beyond the store (the last two
fields of the frame are the crossing's copy of `pushed`, R30, and the model's note of its change, R64). -/
def Obligations.PushStoresAtTheTailOrReportsFull : Prop :=
  ∀ (v : Elem) (s : State), Live .producer s → v < 2 ^ s.build.width →
    decode s.build .producer (4 * v + 1) = .ok (.push v)
      ∧ (occ s.cap s.pushed s.poppedView = s.cap →
          exec (.push v) s = .next { s with resp := { s.resp with
            producer := some { status := .full, count := s.cap, full := true } } })
      ∧ (occ s.cap s.pushed s.poppedView ≠ s.cap → ∃ t, exec (.push v) s = .next t
          ∧ t.slot (idx s.cap s.pushed) = some v
          ∧ (∀ j, j ≠ idx s.cap s.pushed → t.slot j = s.slot j)
          ∧ t.pushed = inc s.cap s.pushed
          ∧ t.resp = { s.resp with producer := some { status := .ok, count := s.pCount, full := false } }
          ∧ t = { s with slots := t.slots, pushed := t.pushed, resp := t.resp, pushedGray := t.pushedGray,
                         pushedGrayOld := t.pushedGrayOld }
          ∧ t.pCount = s.pCount + 1 ∧ t.pFull = (s.pCount + 1 == s.cap)
          ∧ (s.build.clocking = .sync → t.cEmpty = false ∧ t.cCount = s.pCount + 1)
          ∧ (s.build.clocking = .async → t.cEmpty = s.cEmpty ∧ t.cCount = s.cCount))

/-- R103: PENDING_P returns the producer-side occupancy, in `0 .. C`, which `CW` bits can hold, and writes nothing; in
SYNC mode it is the true occupancy, in ASYNC mode an upper bound; it is idempotent. -/
def Obligations.PendingPReturnsProducerOccupancy : Prop :=
  ∀ (v : Elem) (s : State), Ready .producer s → v < 2 ^ s.build.width →
    decode s.build .producer (4 * v + 2) = .ok (.pendingP v)
      ∧ exec (.pendingP v) s = .next { s with resp := { s.resp with
          producer := some { status := .ok, count := occ s.cap s.pushed s.poppedView, full := s.pFull } } }
      ∧ occ s.cap s.pushed s.poppedView ≤ s.cap
      ∧ (s.build.clocking = .sync → occ s.cap s.pushed s.poppedView = s.occupancy)
      ∧ s.occupancy ≤ occ s.cap s.pushed s.poppedView
      ∧ s.cap ≤ 2 * s.cap - 1 ∧ 2 * s.cap - 1 < 2 ^ s.build.counterWidth
      ∧ ∀ t, exec (.pendingP v) s = .next t → exec (.pendingP v) t = .next t

/-- R104, R165: the reserved encoding returns ILLEGAL in any state, a full ring included, and changes nothing. -/
def Obligations.IllegalPAnswersIllegalAndChangesNothing : Prop :=
  ∀ (v : Elem) (s : State), Ready .producer s → v < 2 ^ s.build.width →
    decode s.build .producer (4 * v + 3) = .ok (.illegalP v)
      ∧ exec (.illegalP v) s = .next { s with resp := { s.resp with
          producer := some { status := .illegal, count := occ s.cap s.pushed s.poppedView, full := s.pFull } } }

/-- R105: from an empty ring, empty in the producer's view as well, successive PUSHes store the first `min(k, C)`
elements in order, and each after the `C`-th returns FULL. -/
def Obligations.PushesFillToCapacityThenReportFull : Prop :=
  ∀ (vs : List Elem) (s : State), Live .producer s → (∀ v ∈ vs, v < 2 ^ s.build.width) → s.pCount = 0 →
    ∃ t, trace (vs.map fun v => .op (.push v)) s = some (t, vs.take s.cap, [])
      ∧ contents t = (vs.take s.cap).map some
      ∧ (vs ≠ [] → t.resp.producer.map (·.status) = some (if vs.length ≤ s.cap then .ok else .full))

/-! ## Consumer operations (41_consumer_ops.md) -/

/-- R121: NOP_C in any state gives OK, carries no element and changes nothing. -/
def Obligations.NopCAnswersOkAndChangesNothing : Prop :=
  ∀ s : State, Ready .consumer s →
    decode s.build .consumer 0 = .ok .nopC
      ∧ exec .nopC s = .next { s with resp := { s.resp with
          consumer := some { status := .ok, data := none, count := s.cCount, empty := s.cEmpty } } }

/-- R122: POP, both cases, with what the outputs show after the edge; the slots, and all else but `popped` with the
crossing's copy of it (R30, R64), keep their bits. -/
def Obligations.PopReturnsTheHeadOrReportsEmpty : Prop :=
  ∀ s : State, Live .consumer s →
    decode s.build .consumer 1 = .ok .pop
      ∧ (occ s.cap s.pushedView s.popped = 0 →
          exec .pop s = .next { s with resp := { s.resp with
            consumer := some { status := .emptyOrNoMessage, data := none, count := 0, empty := true } } })
      ∧ (occ s.cap s.pushedView s.popped ≠ 0 → ∃ t e, exec .pop s = .next t
          ∧ s.slot (idx s.cap s.popped) = some e
          ∧ t.resp = { s.resp with
              consumer := some { status := .ok, data := some e, count := s.cCount, empty := false } }
          ∧ t.popped = inc s.cap s.popped
          ∧ t = { s with popped := t.popped, resp := t.resp, poppedGray := t.poppedGray,
                         poppedGrayOld := t.poppedGrayOld }
          ∧ t.cCount + 1 = s.cCount ∧ t.cEmpty = (s.cCount - 1 == 0)
          ∧ (s.build.clocking = .sync → t.pFull = false)
          ∧ (s.build.clocking = .async → t.pFull = s.pFull ∧ t.pCount = s.pCount))

/-- R123: PEEK as POP, but `popped`, and every other state, is unchanged, so it is idempotent; and a later PEEK with no
POP between returns the same element, whatever else happened. -/
def Obligations.PeekReturnsTheHeadAndChangesNothing : Prop :=
  ∀ s : State, Live .consumer s →
    decode s.build .consumer 2 = .ok .peek
      ∧ (occ s.cap s.pushedView s.popped = 0 →
          exec .peek s = .next { s with resp := { s.resp with
            consumer := some { status := .emptyOrNoMessage, data := none, count := 0, empty := true } } })
      ∧ (occ s.cap s.pushedView s.popped ≠ 0 → ∃ e, s.slot (idx s.cap s.popped) = some e
          ∧ exec .peek s = .next { s with resp := { s.resp with
              consumer := some { status := .ok, data := some e, count := s.cCount, empty := false } } }
          ∧ ∀ (es : List Event) (t : State) (acc ret : List Elem), (∀ x ∈ es, x ≠ .op .pop) →
            trace es s = some (t, acc, ret) →
            ∃ u, exec .peek t = .next u ∧ (u.resp.consumer.bind (·.data)) = some e)
      ∧ (∀ t, exec .peek s = .next t → exec .peek t = .next t)

/-- R124: PENDING_C returns the consumer-side occupancy, in `0 .. C`, and writes nothing; in SYNC mode it is the true
occupancy, in ASYNC mode a lower bound. -/
def Obligations.PendingCReturnsConsumerOccupancy : Prop :=
  ∀ s : State, Ready .consumer s →
    decode s.build .consumer 3 = .ok .pendingC
      ∧ exec .pendingC s = .next { s with resp := { s.resp with
          consumer := some { status := .ok, data := none, count := occ s.cap s.pushedView s.popped,
                             empty := s.cEmpty } } }
      ∧ occ s.cap s.pushedView s.popped ≤ s.cap
      ∧ (s.build.clocking = .sync → occ s.cap s.pushedView s.popped = s.occupancy)
      ∧ occ s.cap s.pushedView s.popped ≤ s.occupancy

/-- R127: any number of POPs and PEEKs on a ring the consumer sees as empty write no state and return nothing. -/
def Obligations.EmptyPopsAndPeeksWriteNothing : Prop :=
  ∀ (es : List Event) (s : State), Ready .consumer s → s.cCount = 0 → (∀ e ∈ es, e = .op .pop ∨ e = .op .peek) →
    ∃ t, trace es s = some (t, [], []) ∧ t = { s with resp := t.resp }
      ∧ (es ≠ [] → t.resp.consumer =
          some { status := .emptyOrNoMessage, data := none, count := 0, empty := true })

/-- R129: while the ring holds an element, a PUSH that is admitted writes another slot than the head's, and no operation
but POP changes the element that PEEK or POP would return next. -/
def Obligations.OnlyPopChangesTheHead : Prop :=
  ∀ (i : Instr) (s t : State), BlockInv s → Running s → 0 < s.occupancy → i ≠ .pop → exec i s = .next t →
    t.popped = s.popped ∧ t.head = s.head ∧ (s.occupancy < s.cap → idx s.cap s.pushed ≠ idx s.cap s.popped)
      ∧ (∀ v, i = .push v → ∀ j, j ≠ idx s.cap s.pushed → t.slot j = s.slot j)

/-! ## Ingest operations (43_ingest_frontend.md) -/

/-- R142: NOP_I in any state gives OK and changes nothing, whatever its operands. -/
def Obligations.NopIAnswersOkAndChangesNothing : Prop :=
  ∀ (h : Bool) (f : Nat) (s : State), Ready .ingest s → f < 2 ^ s.build.frameWidth →
    decode s.build .ingest (4 * f + 2 * h.toNat) = .ok (.nopI h f)
      ∧ exec (.nopI h f) s = .next { s with resp := { s.resp with
          ingest := some { status := .ok, seq := s.seq, drops := s.dropCount } } }

/-- R143: INGEST, its three cases: no message; a drop, stamped and counted; a store of `{f, s}`. -/
def Obligations.IngestStampsThenStoresOrCountsTheDrop : Prop :=
  ∀ (h : Bool) (f : Nat) (s : State), Live .ingest s → f < 2 ^ s.build.frameWidth →
    decode s.build .ingest (4 * f + 2 * h.toNat + 1) = .ok (.ingest h f)
      ∧ (h = false →
          exec (.ingest h f) s = .next { s with resp := { s.resp with
            ingest := some { status := .emptyOrNoMessage, seq := s.seq, drops := s.dropCount } } })
      ∧ (h = true → occ s.cap s.pushed s.poppedView = s.cap →
          exec (.ingest h f) s = .next { s with
            seq := s.seq + 1
            dropCount := s.dropCount + 1
            resp := { s.resp with ingest := some { status := .full, seq := s.seq, drops := s.dropCount } } })
      ∧ (h = true → occ s.cap s.pushed s.poppedView ≠ s.cap → ∃ t, exec (.ingest h f) s = .next t
          ∧ t.slot (idx s.cap s.pushed) = some (f * 2 ^ 32 + (s.seq + 1).toNat)
          ∧ (∀ j, j ≠ idx s.cap s.pushed → t.slot j = s.slot j)
          ∧ t.pushed = inc s.cap s.pushed ∧ t.seq = s.seq + 1
          ∧ t.resp = { s.resp with ingest := some { status := .ok, seq := s.seq, drops := s.dropCount } }
          ∧ t = { s with slots := t.slots, pushed := t.pushed, seq := t.seq, resp := t.resp,
                         pushedGray := t.pushedGray, pushedGrayOld := t.pushedGrayOld })

/-- R144, R145, R147: over any schedule, `seq` advances by one for each INGEST with a frame, modulo `2^32`, and each such
frame is either accepted, once, or counted in `drop_count`. -/
def Obligations.EveryFrameIsStampedAndStoredOrCounted : Prop :=
  ∀ (es : List Event) (s t : State) (acc ret : List Elem), Live .ingest s → trace es s = some (t, acc, ret) →
    let frames := es.countP fun e => match e with | .op (.ingest true _) => true | _ => false
    t.seq = s.seq + BitVec.ofNat 32 frames ∧ acc.length ≤ frames
      ∧ t.dropCount = s.dropCount + BitVec.ofNat 32 (frames - acc.length)

/-! ## Frames and responses -/

/-- The operations that write no state (NOP_P, PENDING_P, ILLEGAL_P, NOP_C, PEEK, PENDING_C, NOP_I): all is unchanged
but the response of their own port (R55, R101, R103, R104, R121, R123, R124, R142). -/
def Obligations.ReadOnlyOperationsChangeOnlyTheirResponse : Prop :=
  ∀ (i : Instr) (s t : State), Running s → (∀ v, i ≠ .push v) → i ≠ .pop → (∀ h f, i ≠ .ingest h f) →
    exec i s = .next t →
    t = { s with resp := t.resp }
      ∧ (i.port ≠ .producer → t.resp.producer = s.resp.producer)
      ∧ (i.port ≠ .consumer → t.resp.consumer = s.resp.consumer)
      ∧ (i.port ≠ .ingest → t.resp.ingest = s.resp.ingest)

/-- PUSH and INGEST: all is unchanged but the slot at `idx(pushed)`, where `pushed` advances, `pushed` with its Gray
register, the response of the port, and for INGEST `seq` and `drop_count` (R21, R22, R102, R143). -/
def Obligations.StoringOperationsFrame : Prop :=
  ∀ (i : Instr) (s t : State), Running s → ((∃ v, i = .push v) ∨ ∃ h f, i = .ingest h f) → exec i s = .next t →
    t = { s with slots := t.slots, pushed := t.pushed, pushedGray := t.pushedGray, pushedGrayOld := t.pushedGrayOld,
                 seq := t.seq, dropCount := t.dropCount, resp := t.resp }
      ∧ (∀ j, j ≠ idx s.cap s.pushed → t.slot j = s.slot j)
      ∧ (t.pushed = s.pushed → t.slots = s.slots)
      ∧ t.resp.consumer = s.resp.consumer
      ∧ (∀ v, i = .push v → t.seq = s.seq ∧ t.dropCount = s.dropCount ∧ t.resp.ingest = s.resp.ingest)
      ∧ (∀ h f, i = .ingest h f → t.resp.producer = s.resp.producer)

/-- POP: all is unchanged but `popped` with its Gray register and the consumer's response; every slot keeps its value
(R21, R23, R122). -/
def Obligations.PopFrame : Prop :=
  ∀ s t : State, Running s → exec .pop s = .next t →
    t = { s with popped := t.popped, poppedGray := t.poppedGray, poppedGrayOld := t.poppedGrayOld, resp := t.resp }
      ∧ t.resp.producer = s.resp.producer ∧ t.resp.ingest = s.resp.ingest

/-- R55: PEEK, the PENDINGs, the NOPs and the reserved encoding are idempotent: done again, each gives the same state
and the same response. -/
def Obligations.ReadsAreIdempotent : Prop :=
  ∀ (i : Instr) (s t : State), Running s → (∀ v, i ≠ .push v) → i ≠ .pop → (∀ h f, i ≠ .ingest h f) →
    exec i s = .next t → exec i t = .next t

/-- R84: the count, flag and counter outputs of a response are those of the state before the edge. -/
def Obligations.ResponsesReadTheStateBeforeTheEdge : Prop :=
  ∀ (i : Instr) (s t : State), Running s → exec i s = .next t →
    (i.port = .producer → ∃ r, t.resp.producer = some r ∧ r.count = s.pCount ∧ r.full = s.pFull)
      ∧ (i.port = .consumer → ∃ r, t.resp.consumer = some r ∧ r.count = s.cCount ∧ r.empty = s.cEmpty)
      ∧ (i.port = .ingest → ∃ r, t.resp.ingest = some r ∧ r.seq = s.seq ∧ r.drops = s.dropCount)

/-- R85: each port drives only its own codes, ILLEGAL exactly on the reserved encoding, and `c_data` carries an element
only with OK after POP or PEEK (R29, R187). -/
def Obligations.EachPortDrivesOnlyItsOwnCodes : Prop :=
  ∀ (i : Instr) (s t : State), Running s → exec i s = .next t →
    (∀ r, i.port = .producer → t.resp.producer = some r →
        (r.status.code = 0 ∨ r.status.code = 1 ∨ r.status.code = 3) ∧ (r.status.code = 3 ↔ ∃ v, i = .illegalP v))
      ∧ (∀ r, i.port = .consumer → t.resp.consumer = some r →
        (r.status.code = 0 ∨ r.status.code = 2)
          ∧ (r.data.isSome = true → r.status.code = 0 ∧ (i = .pop ∨ i = .peek)))
      ∧ (∀ r, i.port = .ingest → t.resp.ingest = some r →
        r.status.code = 0 ∨ r.status.code = 1 ∨ r.status.code = 2)

/-! ## Whole-machine rules -/

/-- R26, R30, R37, R67: every step keeps the block's invariant. -/
def Obligations.EveryStepKeepsTheBlockInvariant : Prop :=
  ∀ s t : State, BlockInv s → step s = .next t → BlockInv t

/-- R26, R37, R39: no step from a state that meets the invariant is a fault; so the faults cannot be reached. -/
def Obligations.InvariantStatesNeverFault : Prop :=
  ∀ s : State, BlockInv s → SafeStep s

/-- R70, R191: every request that a block's ports can carry completes at once, for each of the ten operations. -/
def Obligations.EveryPresentOperationCompletes : Prop :=
  ∀ (i : Instr) (s : State), BlockInv s → Running s → i.wellFormed s.build = true →
    ∃ t, exec i s = .next t ∧ BlockInv t ∧ Running t

/-- R6, R34, R182: no step changes the build. -/
def Obligations.NoStepChangesTheBuild : Prop :=
  ∀ s t : State, step s = .next t → t.build = s.build

/-- R24: a counter's only steps are one `inc`, or reset. -/
def Obligations.CountersOnlyIncrementOrReset : Prop :=
  ∀ s t : State, step s = .next t →
    (t.pushed = s.pushed ∨ t.pushed = inc s.cap s.pushed
        ∨ t.pushed = 0 ∧ (s.rstP ≠ .released ∨ s.rstC ≠ .released))
      ∧ (t.popped = s.popped ∨ t.popped = inc s.cap s.popped
        ∨ t.popped = 0 ∧ (s.rstP ≠ .released ∨ s.rstC ≠ .released))

/-- R22, R23, R169: the consumer port changes nothing of the producer side, and the producer and ingest ports nothing
of the consumer side. -/
def Obligations.EachPortWritesOnlyItsOwnSide : Prop :=
  ∀ (i : Instr) (s t : State), Running s → exec i s = .next t →
    (i.port = .consumer → t.slots = s.slots ∧ t.pushed = s.pushed ∧ t.pushedGray = s.pushedGray ∧ t.rsync = s.rsync
        ∧ t.seq = s.seq ∧ t.dropCount = s.dropCount)
      ∧ (i.port ≠ .consumer → t.popped = s.popped ∧ t.poppedGray = s.poppedGray ∧ t.wsync = s.wsync)

/-- R126, R27, R28: each flag says what its count says; a side that reports empty does not count `C`, one that reports
full does not count 0, and in SYNC mode the block is never empty and full at once. -/
def Obligations.EmptyAndFullExcludeEachOther : Prop :=
  ∀ s : State, 1 ≤ s.cap →
    (s.cEmpty = true ↔ s.cCount = 0) ∧ (s.pFull = true ↔ s.pCount = s.cap)
      ∧ (s.cEmpty = true → s.cCount ≠ s.cap) ∧ (s.pFull = true → s.pCount ≠ 0)
      ∧ ¬ (s.cCount = 0 ∧ s.cCount = s.cap) ∧ ¬ (s.pCount = 0 ∧ s.pCount = s.cap)
      ∧ (s.build.clocking = .sync → ¬ (s.cEmpty = true ∧ s.pFull = true))

/-- R38: on the queue the ring holds, an admitted PUSH appends, an admitted POP removes the head and returns it, an
admitted PEEK returns it; in SYNC mode they are admitted when the queue has room, and when it is not empty. -/
def Obligations.OperationsRefineTheQueue : Prop :=
  ∀ s : State, BlockInv s → Running s →
    (contents s).length = s.occupancy
      ∧ (s.build.clocking = .sync →
          s.pCount = (contents s).length ∧ s.cCount = (contents s).length)
      ∧ (∀ v, s.build.hasPort .producer = true → v < 2 ^ s.build.width → s.pCount < s.cap →
          ∃ t, exec (.push v) s = .next t ∧ contents t = contents s ++ [some v])
      ∧ (0 < s.cCount → ∃ t e rest, contents s = some e :: rest ∧ exec .pop s = .next t ∧ contents t = rest
          ∧ (t.resp.consumer.bind (·.data)) = some e)
      ∧ (0 < s.cCount → ∃ t e rest, contents s = some e :: rest ∧ exec .peek s = .next t ∧ contents t = contents s
          ∧ (t.resp.consumer.bind (·.data)) = some e)

/-- R125: over any schedule of operations and sync steps, the ring's contents and what it then accepts are, in order,
what it returns and what it still holds: first in, first out, no loss and no duplication, in both clockings (R67). -/
def Obligations.SchedulesAreFirstInFirstOut : Prop :=
  ∀ (es : List Event) (s t : State) (acc ret : List Elem), BlockInv s → Running s →
    trace es s = some (t, acc, ret) → contents s ++ acc.map some = ret.map some ++ contents t

/-- R37: a slot outside the live ones is never observable: two states that differ only in such slots give the same
responses and stay so. -/
def Obligations.StaleSlotsAreNotObservable : Prop :=
  ∀ (i : Instr) (s t : State) (m : Memory), BlockInv s → Running s → BlockInv { s with slots := m } →
    contents { s with slots := m } = contents s → exec i s = .next t →
    ∃ m', exec i { s with slots := m } = .next { t with slots := m' } ∧ contents { t with slots := m' } = contents t

/-- R57: a PUSH, or with the front-end an INGEST, and a POP in the same SYNC cycle both read the state before the edge and
their writes are merged, the event counters included; the result is that of one of the two orders, by the occupancy
before the edge. -/
def Obligations.SameCycleEqualsASequentialOrder : Prop :=
  ∀ (word : Nat) (i : Instr) (s : State), BlockInv s → Running s → s.build.clocking = .sync →
    decode s.build (portOf s.build .producer) word = .ok i → ((∃ v, i = .push v) ∨ ∃ h f, i = .ingest h f) →
    ∃ t u w, runSameCycle word 1 s = .next t ∧ exec i s = .next u ∧ exec .pop s = .next w
      ∧ t = { s with slots := u.slots, pushed := u.pushed, seq := u.seq, dropCount := u.dropCount, popped := w.popped
                     resp := { producer := u.resp.producer, consumer := w.resp.consumer, ingest := u.resp.ingest } }
      ∧ (s.occupancy = s.cap →
          (∀ v, i = .push v → t.resp.producer.map (·.status) = some .full ∧ t.pushed = s.pushed)
            ∧ (∀ f, i = .ingest true f → t.resp.ingest.map (·.status) = some .full ∧ t.pushed = s.pushed
                ∧ t.seq = s.seq + 1 ∧ t.dropCount = s.dropCount + 1)
            ∧ t.resp.consumer.map (·.status) = some .ok ∧ t.popped = inc s.cap s.popped
            ∧ ∃ x, exec .pop u = .next x ∧ SameRing t x)
      ∧ (s.occupancy = 0 →
          (∀ v, i = .push v → t.resp.producer.map (·.status) = some .ok ∧ t.pushed = inc s.cap s.pushed)
            ∧ (∀ f, i = .ingest true f → t.resp.ingest.map (·.status) = some .ok ∧ t.pushed = inc s.cap s.pushed
                ∧ t.seq = s.seq + 1 ∧ t.dropCount = s.dropCount)
            ∧ t.resp.consumer.map (·.status) = some .emptyOrNoMessage ∧ t.popped = s.popped
            ∧ ∃ x, exec i w = .next x ∧ SameRing t x)
      ∧ (0 < s.occupancy → s.occupancy < s.cap →
          (∀ v, i = .push v → t.resp.producer.map (·.status) = some .ok ∧ t.pushed = inc s.cap s.pushed)
            ∧ (∀ f, i = .ingest true f → t.resp.ingest.map (·.status) = some .ok ∧ t.pushed = inc s.cap s.pushed
                ∧ t.seq = s.seq + 1 ∧ t.dropCount = s.dropCount)
            ∧ t.resp.consumer.map (·.status) = some .ok ∧ t.popped = inc s.cap s.popped
            ∧ idx s.cap s.pushed ≠ idx s.cap s.popped
            ∧ (∃ x, exec .pop u = .next x ∧ SameRing t x) ∧ ∃ x, exec i w = .next x ∧ SameRing t x)
      ∧ (∀ f, i = .ingest false f → t.resp.ingest.map (·.status) = some .emptyOrNoMessage ∧ t.pushed = s.pushed
          ∧ t.seq = s.seq ∧ t.dropCount = s.dropCount)

/-- R124, R188: in any schedule in which the only consumer operations are POPs, at most as many as the consumer's count
at the start, every POP returns an element: a drain of a count read by PENDING_C never meets EMPTY. -/
def Obligations.DrainOfTheCountNeverMeetsEmpty : Prop :=
  ∀ (es : List Event) (s t : State) (acc ret : List Elem), BlockInv s → Running s →
    (∀ i, Event.op i ∈ es → i.port = .consumer → i = .pop) → es.count (.op .pop) ≤ s.cCount →
    trace es s = some (t, acc, ret) → ret.length = es.count (.op .pop)

/-! ## The ASYNC crossing (20_memory.md, section 4) -/

/-- R65, R66: a sync step moves a side's view forward by its `k`, never past the other side's counter, and changes
nothing else an operation reads; outside `1 .. occ(remote, view)` it is refused. -/
def Obligations.SyncStepMovesTheViewForward : Prop :=
  ∀ (k : Nat) (s : State), BlockInv s → Running s → s.build.clocking = .async →
    (1 ≤ k → k ≤ occ s.cap s.popped s.poppedSeenP → ∃ t, syncStep .producer k s = .next t
        ∧ t.poppedSeenP = advance s.cap s.poppedSeenP k
        ∧ occ s.cap s.popped t.poppedSeenP + k = occ s.cap s.popped s.poppedSeenP
        ∧ t = { s with rsync := t.rsync, poppedGrayOld := t.poppedGrayOld })
      ∧ (1 ≤ k → k ≤ occ s.cap s.pushed s.pushedSeenC → ∃ t, syncStep .consumer k s = .next t
        ∧ t.pushedSeenC = advance s.cap s.pushedSeenC k
        ∧ occ s.cap s.pushed t.pushedSeenC + k = occ s.cap s.pushed s.pushedSeenC
        ∧ t = { s with wsync := t.wsync, pushedGrayOld := t.pushedGrayOld })
      ∧ ((k = 0 ∨ occ s.cap s.popped s.poppedSeenP < k) → syncStep .producer k s = .refused .illegalSyncStep)
      ∧ ((k = 0 ∨ occ s.cap s.pushed s.pushedSeenC < k) → syncStep .consumer k s = .refused .illegalSyncStep)

/-- R65: the registers' view moves by zero, one or more steps at an edge, forward and never past the counter, so it is
one of the behaviours of the sync-step laws. -/
def Obligations.RegisterEdgesObeyTheViewLaws : Prop :=
  ∀ (bits : Option Nat) (late : Bool) (s t : State), BlockInv s → Running s → s.build.clocking = .async →
    (runEdge .producer bits late s = .next t → t.pushedSeenC = s.pushedSeenC
        ∧ ∃ k, k ≤ occ s.cap s.popped s.poppedSeenP ∧ t.poppedSeenP = advance s.cap s.poppedSeenP k)
      ∧ (runEdge .consumer bits late s = .next t → t.poppedSeenP = s.poppedSeenP
        ∧ ∃ k, k ≤ occ s.cap s.pushed s.pushedSeenC ∧ t.pushedSeenC = advance s.cap s.pushedSeenC k)

/-- R65 law 3, R66: in a run whose sync steps are weakly fair, if the other side's counter stops changing, a side's view
eventually equals it, and stays so. R65, R186: in registers that takes at most `N_SYNC + 1` edges of the side's clock,
whatever the requests and the draws. -/
def Obligations.ViewsReachAStoppedCounter : Prop :=
  (∀ (schedule : Nat → Option Input) (run : Nat → State) (n : Nat), FairRun schedule run → BlockInv (run 0) →
      (run 0).build.clocking = .async → (∀ m, n ≤ m → Running (run m)) →
      ((∀ m, n ≤ m → (run m).popped = (run n).popped) →
          ∃ m, n ≤ m ∧ ∀ j, m ≤ j → (run j).poppedSeenP = (run n).popped)
        ∧ ((∀ m, n ≤ m → (run m).pushed = (run n).pushed) →
          ∃ m, n ≤ m ∧ ∀ j, m ≤ j → (run j).pushedSeenC = (run n).pushed))
    ∧ ∀ (l : List (Option Nat × Bool)) (s t : State), BlockInv s → Running s → s.build.clocking = .async →
      s.build.nSync + 1 ≤ l.length →
      (edges .producer l s = .next t → t.popped = s.popped ∧ t.poppedSeenP = s.popped)
        ∧ (edges .consumer l s = .next t → t.pushed = s.pushed ∧ t.pushedSeenC = s.pushed)

/-- R64: the first stage captures the other domain's register, or by the draw the code that register held one `inc`
before, which differs from it in one bit, and no other value; after an operation that changes the counter, the old code is
that of the counter before the operation. (What counts as a change near an edge is the model's: notes/assumptions/10.) -/
def Obligations.SampleIsTheOldOrTheNewCode : Prop :=
  ∀ s : State, BlockInv s → Running s → s.build.clocking = .async →
    ((capture .producer false s).rsync.head? = some (gray s.popped)
        ∧ ∃ x, x < 2 * s.cap ∧ (capture .producer true s).rsync.head? = some (gray x)
          ∧ (x = s.popped ∨ inc s.cap x = s.popped ∧ ∃ j, gray x ^^^ gray s.popped = 2 ^ j))
      ∧ ((capture .consumer false s).wsync.head? = some (gray s.pushed)
        ∧ ∃ x, x < 2 * s.cap ∧ (capture .consumer true s).wsync.head? = some (gray x)
          ∧ (x = s.pushed ∨ inc s.cap x = s.pushed ∧ ∃ j, gray x ^^^ gray s.pushed = 2 ^ j))
      ∧ ∀ (i : Instr) (t : State), exec i s = .next t →
          (t.popped ≠ s.popped → (capture .producer true t).rsync.head? = some (gray s.popped)
              ∧ (capture .producer false t).rsync.head? = some (gray t.popped))
            ∧ (t.pushed ≠ s.pushed → (capture .consumer true t).wsync.head? = some (gray s.pushed)
              ∧ (capture .consumer false t).wsync.head? = some (gray t.pushed))

/-- R59: each position the consumer sees as pushed can be read. -/
def Obligations.SeenPositionsAreReadable : Prop :=
  ∀ (s : State) (k : Nat), BlockInv s → Running s → k < s.cCount →
    ∃ e, s.slot (idx s.cap (advance s.cap s.popped k)) = some e ∧ e < 2 ^ s.build.width

/-! ## Agents, inputs and steps (R89, R90, R169, R175, R184) -/

/-- A step with a request on a port that no agent drives performs the instruction its bits decode to (R11, R170); and
the word the host places is the instruction the next step performs in the reset state (the port a table word stands on
is the model's choice: notes/assumptions/15). -/
def Obligations.StepPerformsTheDecodedRequest : Prop :=
  (∀ (s : State) (p : Port) (bits : Nat) (rest : List Input) (i : Instr), s.inputs = .request p bits :: rest →
      portsDistinct s = true → portDriven p s = false → decode s.build p bits = .ok i →
      step s = exec i { s with inputs := rest })
    ∧ ∀ (nbits w : Nat) (i : Instr), decodeTableWord nbits w = some i →
      step (State.reset.withFetchWord nbits w) = exec i State.reset

/-- A step with a clock edge that carries a request performs it, and shifts the domain's chain where it is out of reset;
an edge with no request answers as the port's NOP does (R175). R30: the shift puts what stage 0 samples in front and drops
the last stage, so that stage `k` takes stage `k-1`; nothing else changes but the model's note of the change that this edge
has captured (notes/assumptions/10); in SYNC mode there is no chain. -/
def Obligations.StepPerformsAClockEdge : Prop :=
  (∀ (s : State) (d : Domain) (late : Bool) (rest : List Input), portsDistinct s = true →
    (∀ (bits : Nat) (i : Instr) (t : State), s.inputs = .edge d (some bits) late :: rest →
        portDriven (portOf s.build d) s = false → decode s.build (portOf s.build d) bits = .ok i → Running s →
        exec i { s with inputs := rest } = .next t → step s = .next (capture d late t))
      ∧ (s.inputs = .edge d none late :: rest → Running s → s.build.legal = true → ringFault s = none →
        step s = .next (capture d late
          (respond (portOf s.build d) .ok none { s with inputs := rest } { s with inputs := rest }))))
    ∧ ∀ (s : State) (late : Bool),
      (s.build.clocking = .async →
        capture .producer late s = { s with rsync := sampled .producer late s :: s.rsync.dropLast
                                            poppedGrayOld := s.poppedGray }
          ∧ capture .consumer late s = { s with wsync := sampled .consumer late s :: s.wsync.dropLast
                                                pushedGrayOld := s.pushedGray })
        ∧ (s.build.clocking = .sync → ∀ d, capture d late s = s)
        ∧ (∀ k, s.build.clocking = .async → 1 ≤ k → k < s.rsync.length →
            (capture .producer late s).rsync[k]? = s.rsync[k - 1]?)
        ∧ (∀ k, s.build.clocking = .async → 1 ≤ k → k < s.wsync.length →
            (capture .consumer late s).wsync[k]? = s.wsync[k - 1]?)

/-- The steps with a sync step, a reset input or both ports' requests do what those say (R170, R180, R57). A step with no
input holds the state (R175); that it records no response, where a port's NOP would, and that it is no clock edge, so that
it resets nothing while `rst` is asserted, is the model's choice (notes/assumptions/24: DESIGN CHOICE), and so is the list
of inputs (notes/assumptions/8). -/
def Obligations.StepTakesTheNextInput : Prop :=
  ∀ (s : State) (rest : List Input), portsDistinct s = true → s.build.legal = true → stateFault s = none →
    (s.inputs = [] → step s = .next s)
      ∧ (∀ d k, s.inputs = .sync d k :: rest → step s = syncStep d k { s with inputs := rest })
      ∧ (s.inputs = .rstAssert :: rest → step s = .next (assertReset { s with inputs := rest }))
      ∧ (∀ d, s.inputs = .rstRelease d :: rest → step s = releaseReset d { s with inputs := rest })
      ∧ (∀ k, s.inputs = .agent k :: rest → step s = agentStep k { s with inputs := rest })
      ∧ (∀ v w, s.inputs = .sameCycle v w :: rest → portDriven (portOf s.build .producer) s = false →
          portDriven .consumer s = false → step s = runSameCycle v w { s with inputs := rest })

/-- R89: an agent's step at a block operation performs it and keeps the status, the count, the data and the log. -/
def Obligations.AgentStepPerformsItsOperation : Prop :=
  ∀ (k : Nat) (a : Agent) (i : Instr) (s t : State), s.agents[k]? = some a → a.scriptOnPort s.build = true →
    a.halted = false → a.script[a.ip]? = some (.op i) → Running s → exec i s = .next t →
    ∃ a', agentStep k s = .next { t with agents := s.agents.set k a' } ∧ a'.ip = a.ip + 1 ∧ a'.n = a.n
      ∧ a'.port = a.port ∧ a'.script = a.script ∧ a'.halted = a.halted
      ∧ (i.port = .producer → t.resp.producer.map (·.status) = some a'.st)
      ∧ (i.port = .consumer → t.resp.consumer.map (·.status) = some a'.st)
      ∧ (i.port = .ingest → t.resp.ingest.map (·.status) = some a'.st)
      ∧ (∀ v, i = .pendingP v → a'.cnt = s.pCount) ∧ (i = .pendingC → a'.cnt = s.cCount)
      ∧ ((∀ v, i ≠ .pendingP v) → i ≠ .pendingC → a'.cnt = a.cnt)
      ∧ (i = .pop → a'.log = a.log ++ returned (.op i) t) ∧ (i ≠ .pop → a'.log = a.log)
      ∧ (i = .pop ∨ i = .peek → a'.dat = ((t.resp.consumer.bind (·.data)) <|> a.dat))
      ∧ (i ≠ .pop → i ≠ .peek → a'.dat = a.dat)

/-- R90: a script at its end is ended as though HALT followed, and a stopped agent does nothing; each agent-local step
changes its own agent only, as the table says, and takes no block cycle. That `n` is an integer, so that DECN at 0 or
below goes on down, is the model's choice (notes/assumptions/19: DESIGN CHOICE); that B.EMPTY and B.NOMSG test the same
code, and that a stopped agent's step changes nothing, is its reading (notes/assumptions/20: DEDUCED). -/
def Obligations.LocalStepsTouchOnlyTheirAgent : Prop :=
  (∀ (k : Nat) (a : Agent) (s : State), s.agents[k]? = some a → a.scriptOnPort s.build = true →
      (a.halted = false → a.script[a.ip]? = none →
          agentStep k s = .next { s with agents := s.agents.set k { a with halted := true } })
        ∧ (a.halted = true → agentStep k s = .next s))
  ∧ ∀ (k : Nat) (a : Agent) (l : Line) (s : State), s.agents[k]? = some a → a.scriptOnPort s.build = true →
    a.halted = false → a.script[a.ip]? = some l → (∀ i, l ≠ .op i) →
    ∃ a', agentStep k s = .next { s with agents := s.agents.set k a' }
      ∧ a' = { a with ip := a'.ip, n := a'.n, halted := a'.halted }
      ∧ (∀ L, l = .bOk L → a' = { a with ip := if a.st = .ok then L else a.ip + 1 })
      ∧ (∀ L, l = .bFull L → a' = { a with ip := if a.st = .full then L else a.ip + 1 })
      ∧ (∀ L, (l = .bEmpty L ∨ l = .bNoMsg L) → a' = { a with ip := if a.st.code = 2 then L else a.ip + 1 })
      ∧ (l = .setNCnt → a' = { a with n := a.cnt, ip := a.ip + 1 })
      ∧ (∀ m, l = .setN m → a' = { a with n := m, ip := a.ip + 1 })
      ∧ (l = .decN → a' = { a with n := a.n - 1, ip := a.ip + 1 })
      ∧ (∀ L, l = .bZn L → a' = { a with ip := if a.n = 0 then L else a.ip + 1 })
      ∧ (∀ L, l = .bNz L → a' = { a with ip := if a.n ≠ 0 then L else a.ip + 1 })
      ∧ (∀ L, l = .jmp L → a' = { a with ip := L })
      ∧ (l = .halt → a' = { a with halted := true })

/-- R184, R169, R140: a composition in which two agents drive one port is refused every step, and so are an outside
request on a port an agent drives and an agent whose script holds an operation of another port or one its port cannot
carry. That the refusal falls at the step, and for a script at its first step whichever line it is at, is the model's
choice (notes/assumptions/21: DESIGN CHOICE). -/
def Obligations.PortOwnershipIsEnforced : Prop :=
  (∀ s : State, portsDistinct s = false → step s = .refused .sharedPort)
    ∧ (∀ (s : State) (p : Port) (bits : Nat) (rest : List Input), s.inputs = .request p bits :: rest →
      s.build.legal = true → stateFault s = none → portDriven p s = true → step s = .refused .sharedPort)
    ∧ (∀ (s : State) (k : Nat) (a : Agent) (i : Instr), s.agents[k]? = some a → .op i ∈ a.script →
      (i.port ≠ a.port ∨ i.wellFormed s.build = false) → agentStep k s = .refused .scriptNotOnPort)
end

