-- ==== Sys2Proof/Laws/Counter.lean ====
section
/-! SUPPORT. Small facts of the counter arithmetic of R9, each unfolding its definition once. -/

namespace Sys2Proof.Machine

variable {C a b x : Nat}

theorem inc_lt (h : x < 2 * C) : inc C x < 2 * C := by
  unfold inc; split <;> omega

theorem idx_lt (h : x < 2 * C) : idx C x < C := by
  unfold idx; split <;> omega

theorem occ_lt (ha : a < 2 * C) : occ C a b < 2 * C := by
  unfold occ; split <;> omega

@[simp] theorem occ_self : occ C a a = 0 := by simp [occ]

theorem occ_eq_zero (hb : b < 2 * C) : occ C a b = 0 ↔ a = b := by
  unfold occ; split <;> omega

/-- Moving the counter that leads by one adds one to the occupancy. -/
theorem occ_inc_left (ha : a < 2 * C) (hb : b < 2 * C) (h : occ C a b + 1 < 2 * C) :
    occ C (inc C a) b = occ C a b + 1 := by
  unfold occ inc at *; split at h <;> split <;> split <;> omega

/-- Moving the counter that follows by one takes one from a non-empty occupancy. -/
theorem occ_inc_right (ha : a < 2 * C) (hb : b < 2 * C) (h : 0 < occ C a b) :
    occ C a (inc C b) + 1 = occ C a b := by
  unfold occ inc at *; split at h <;> split <;> split <;> omega

@[simp] theorem advance_zero : advance C x 0 = x := rfl

theorem advance_succ (k : Nat) : advance C x (k + 1) = inc C (advance C x k) := rfl

theorem advance_inc (k : Nat) : advance C (inc C x) k = advance C x (k + 1) := by
  induction k with
  | zero => rfl
  | succ k ih => rw [advance_succ, ih]; rfl

theorem advance_lt (h : x < 2 * C) (k : Nat) : advance C x k < 2 * C := by
  induction k with
  | zero => exact h
  | succ k ih => exact inc_lt ih

/-- `advance` in closed form, within one turn of the counter. -/
theorem advance_eq (h : x < 2 * C) {k : Nat} (hk : k < 2 * C) :
    advance C x k = if x + k < 2 * C then x + k else x + k - 2 * C := by
  induction k with
  | zero => simp [h]
  | succ k ih =>
    rw [advance_succ, ih (by omega)]
    unfold inc
    split <;> split <;> split <;> omega

theorem advance_occ (ha : a < 2 * C) (hb : b < 2 * C) : advance C b (occ C a b) = a := by
  rw [advance_eq hb (occ_lt ha)]
  unfold occ
  split <;> split <;> omega

theorem occ_advance_right (ha : a < 2 * C) (hb : b < 2 * C) {k : Nat} (hk : k ≤ occ C a b) :
    occ C a (advance C b k) + k = occ C a b := by
  have hlt : occ C a b < 2 * C := occ_lt ha
  rw [advance_eq hb (by omega)]
  unfold occ at *
  split at hk <;> split <;> split <;> omega

/-- The `C` positions from a counter on are distinct slots (R37). -/
theorem idx_advance_inj (h : x < 2 * C) {j k : Nat} (hj : j < C) (hk : k < C)
    (he : idx C (advance C x j) = idx C (advance C x k)) : j = k := by
  rw [advance_eq h (by omega), advance_eq h (by omega)] at he
  unfold idx at he
  split at he <;> split at he <;> split at he <;> split at he <;> omega

/-- The tail's slot is not a live one (R57, R129). -/
theorem idx_advance_ne (ha : a < 2 * C) (hb : b < 2 * C) (hf : occ C a b < C) {k : Nat} (hk : k < occ C a b) :
    idx C (advance C b k) ≠ idx C a := by
  intro he
  have := idx_advance_inj hb (j := k) (k := occ C a b) (by omega) hf (by rw [he, advance_occ ha hb])
  omega

variable {v : Nat}

/-- A view `v` of `b` that is no nearer to `a` than `b` is: the occupancy against it is larger by its lag. -/
theorem occ_split (hb : b < 2 * C) (hv : v < 2 * C) (h : occ C a b ≤ occ C a v) :
    occ C a v = occ C a b + occ C b v := by
  unfold occ at *; split_ifs at h ⊢ <;> omega

/-- A view `v` of `a` that is no further from `b` than `a` is: the occupancy against it is smaller by its lag. -/
theorem occ_split_left (ha : a < 2 * C) (hb : b < 2 * C) (hv : v < 2 * C) (h : occ C v b ≤ occ C a b) :
    occ C a b = occ C v b + occ C a v := by
  unfold occ at *; split_ifs at h ⊢ <;> omega

/-- An occupancy and a lag behind it add up, within one turn of the counter. -/
theorem occ_join (ha : a < 2 * C) (hb : b < 2 * C) (hv : v < 2 * C) (h : occ C a b + occ C b v < 2 * C) :
    occ C a v = occ C a b + occ C b v := by
  unfold occ at *; split_ifs at h ⊢ <;> omega

/-- A value that lags behind `a` by no more than `b` does lies between them. -/
theorem occ_between (hb : b < 2 * C) (hv : v < 2 * C) (h : occ C a v ≤ occ C a b) :
    occ C v b ≤ occ C a b := by
  unfold occ at *; split_ifs at h ⊢ <;> omega

/-- A lag determines the value that lags. -/
theorem occ_right_inj (_hb : b < 2 * C) (hv : v < 2 * C) (h : occ C a b = occ C a v) : b = v := by
  unfold occ at *; split_ifs at h <;> omega

end Sys2Proof.Machine
end

