-- ==== Sys2Proof/Laws/State.lean ====
section
/-! SUPPORT. One lemma per field per update of the state, true by `rfl` or by the clocking, and the outputs of the
updates that change no counter: no later proof unfolds a record update. -/

namespace Sys2Proof.Machine

/-! ### `setPushed`, `setPopped`, `store`, `take` -/

@[simp] theorem setPushed_build (v : Nat) (s : State) :
    (s.setPushed v).build = s.build := by unfold State.setPushed; split <;> rfl
@[simp] theorem setPushed_slots (v : Nat) (s : State) :
    (s.setPushed v).slots = s.slots := by unfold State.setPushed; split <;> rfl
@[simp] theorem setPushed_popped (v : Nat) (s : State) :
    (s.setPushed v).popped = s.popped := by unfold State.setPushed; split <;> rfl
@[simp] theorem setPushed_poppedGray (v : Nat) (s : State) :
    (s.setPushed v).poppedGray = s.poppedGray := by unfold State.setPushed; split <;> rfl
@[simp] theorem setPushed_wsync (v : Nat) (s : State) :
    (s.setPushed v).wsync = s.wsync := by unfold State.setPushed; split <;> rfl
@[simp] theorem setPushed_rsync (v : Nat) (s : State) :
    (s.setPushed v).rsync = s.rsync := by unfold State.setPushed; split <;> rfl
@[simp] theorem setPushed_seq (v : Nat) (s : State) :
    (s.setPushed v).seq = s.seq := by unfold State.setPushed; split <;> rfl
@[simp] theorem setPushed_dropCount (v : Nat) (s : State) :
    (s.setPushed v).dropCount = s.dropCount := by unfold State.setPushed; split <;> rfl
@[simp] theorem setPushed_poppedGrayOld (v : Nat) (s : State) :
    (s.setPushed v).poppedGrayOld = s.poppedGrayOld := by unfold State.setPushed; split <;> rfl
@[simp] theorem setPushed_rstP (v : Nat) (s : State) :
    (s.setPushed v).rstP = s.rstP := by unfold State.setPushed; split <;> rfl
@[simp] theorem setPushed_rstC (v : Nat) (s : State) :
    (s.setPushed v).rstC = s.rstC := by unfold State.setPushed; split <;> rfl
@[simp] theorem setPushed_resp (v : Nat) (s : State) :
    (s.setPushed v).resp = s.resp := by unfold State.setPushed; split <;> rfl
@[simp] theorem setPushed_draws (v : Nat) (s : State) :
    (s.setPushed v).draws = s.draws := by unfold State.setPushed; split <;> rfl
@[simp] theorem setPushed_inputs (v : Nat) (s : State) :
    (s.setPushed v).inputs = s.inputs := by unfold State.setPushed; split <;> rfl
@[simp] theorem setPushed_agents (v : Nat) (s : State) :
    (s.setPushed v).agents = s.agents := by unfold State.setPushed; split <;> rfl

@[simp] theorem setPushed_pushed (v : Nat) (s : State) : (s.setPushed v).pushed = v := by
  unfold State.setPushed; split <;> rfl

@[simp] theorem setPopped_build (v : Nat) (s : State) :
    (s.setPopped v).build = s.build := by unfold State.setPopped; split <;> rfl
@[simp] theorem setPopped_slots (v : Nat) (s : State) :
    (s.setPopped v).slots = s.slots := by unfold State.setPopped; split <;> rfl
@[simp] theorem setPopped_pushed (v : Nat) (s : State) :
    (s.setPopped v).pushed = s.pushed := by unfold State.setPopped; split <;> rfl
@[simp] theorem setPopped_pushedGray (v : Nat) (s : State) :
    (s.setPopped v).pushedGray = s.pushedGray := by unfold State.setPopped; split <;> rfl
@[simp] theorem setPopped_wsync (v : Nat) (s : State) :
    (s.setPopped v).wsync = s.wsync := by unfold State.setPopped; split <;> rfl
@[simp] theorem setPopped_rsync (v : Nat) (s : State) :
    (s.setPopped v).rsync = s.rsync := by unfold State.setPopped; split <;> rfl
@[simp] theorem setPopped_seq (v : Nat) (s : State) :
    (s.setPopped v).seq = s.seq := by unfold State.setPopped; split <;> rfl
@[simp] theorem setPopped_dropCount (v : Nat) (s : State) :
    (s.setPopped v).dropCount = s.dropCount := by unfold State.setPopped; split <;> rfl
@[simp] theorem setPopped_pushedGrayOld (v : Nat) (s : State) :
    (s.setPopped v).pushedGrayOld = s.pushedGrayOld := by unfold State.setPopped; split <;> rfl
@[simp] theorem setPopped_rstP (v : Nat) (s : State) :
    (s.setPopped v).rstP = s.rstP := by unfold State.setPopped; split <;> rfl
@[simp] theorem setPopped_rstC (v : Nat) (s : State) :
    (s.setPopped v).rstC = s.rstC := by unfold State.setPopped; split <;> rfl
@[simp] theorem setPopped_resp (v : Nat) (s : State) :
    (s.setPopped v).resp = s.resp := by unfold State.setPopped; split <;> rfl
@[simp] theorem setPopped_draws (v : Nat) (s : State) :
    (s.setPopped v).draws = s.draws := by unfold State.setPopped; split <;> rfl
@[simp] theorem setPopped_inputs (v : Nat) (s : State) :
    (s.setPopped v).inputs = s.inputs := by unfold State.setPopped; split <;> rfl
@[simp] theorem setPopped_agents (v : Nat) (s : State) :
    (s.setPopped v).agents = s.agents := by unfold State.setPopped; split <;> rfl

@[simp] theorem setPopped_popped (v : Nat) (s : State) : (s.setPopped v).popped = v := by
  unfold State.setPopped; split <;> rfl

@[simp] theorem store_build (v : Elem) (s : State) : (s.store v).build = s.build := by simp [State.store]
@[simp] theorem store_popped (v : Elem) (s : State) : (s.store v).popped = s.popped := by simp [State.store]
@[simp] theorem store_poppedGray (v : Elem) (s : State) :
    (s.store v).poppedGray = s.poppedGray := by simp [State.store]
@[simp] theorem store_wsync (v : Elem) (s : State) : (s.store v).wsync = s.wsync := by simp [State.store]
@[simp] theorem store_rsync (v : Elem) (s : State) : (s.store v).rsync = s.rsync := by simp [State.store]
@[simp] theorem store_seq (v : Elem) (s : State) : (s.store v).seq = s.seq := by simp [State.store]
@[simp] theorem store_dropCount (v : Elem) (s : State) : (s.store v).dropCount = s.dropCount := by simp [State.store]
@[simp] theorem store_poppedGrayOld (v : Elem) (s : State) :
    (s.store v).poppedGrayOld = s.poppedGrayOld := by simp [State.store]
@[simp] theorem store_rstP (v : Elem) (s : State) : (s.store v).rstP = s.rstP := by simp [State.store]
@[simp] theorem store_rstC (v : Elem) (s : State) : (s.store v).rstC = s.rstC := by simp [State.store]
@[simp] theorem store_resp (v : Elem) (s : State) : (s.store v).resp = s.resp := by simp [State.store]
@[simp] theorem store_draws (v : Elem) (s : State) : (s.store v).draws = s.draws := by simp [State.store]
@[simp] theorem store_inputs (v : Elem) (s : State) : (s.store v).inputs = s.inputs := by simp [State.store]
@[simp] theorem store_agents (v : Elem) (s : State) : (s.store v).agents = s.agents := by simp [State.store]

@[simp] theorem store_slots (v : Elem) (s : State) :
    (s.store v).slots = Memory.write s.slots (idx s.cap s.pushed) v := by simp [State.store]
@[simp] theorem store_pushed (v : Elem) (s : State) : (s.store v).pushed = inc s.cap s.pushed := by simp [State.store]

@[simp] theorem take_build (s : State) : (s.take).build = s.build := by simp [State.take]
@[simp] theorem take_slots (s : State) : (s.take).slots = s.slots := by simp [State.take]
@[simp] theorem take_pushed (s : State) : (s.take).pushed = s.pushed := by simp [State.take]
@[simp] theorem take_pushedGray (s : State) : (s.take).pushedGray = s.pushedGray := by simp [State.take]
@[simp] theorem take_wsync (s : State) : (s.take).wsync = s.wsync := by simp [State.take]
@[simp] theorem take_rsync (s : State) : (s.take).rsync = s.rsync := by simp [State.take]
@[simp] theorem take_seq (s : State) : (s.take).seq = s.seq := by simp [State.take]
@[simp] theorem take_dropCount (s : State) : (s.take).dropCount = s.dropCount := by simp [State.take]
@[simp] theorem take_pushedGrayOld (s : State) : (s.take).pushedGrayOld = s.pushedGrayOld := by simp [State.take]
@[simp] theorem take_rstP (s : State) : (s.take).rstP = s.rstP := by simp [State.take]
@[simp] theorem take_rstC (s : State) : (s.take).rstC = s.rstC := by simp [State.take]
@[simp] theorem take_resp (s : State) : (s.take).resp = s.resp := by simp [State.take]
@[simp] theorem take_draws (s : State) : (s.take).draws = s.draws := by simp [State.take]
@[simp] theorem take_inputs (s : State) : (s.take).inputs = s.inputs := by simp [State.take]
@[simp] theorem take_agents (s : State) : (s.take).agents = s.agents := by simp [State.take]

@[simp] theorem take_popped (s : State) : s.take.popped = inc s.cap s.popped := by simp [State.take]

/-! ### `respond` and `respondUnspecified` -/

@[simp] theorem respond_build (p : Port) (st : Status) (d : Option Elem) (pre s : State) :
    (respond p st d pre s).build = s.build := rfl
@[simp] theorem respond_slots (p : Port) (st : Status) (d : Option Elem) (pre s : State) :
    (respond p st d pre s).slots = s.slots := rfl
@[simp] theorem respond_pushed (p : Port) (st : Status) (d : Option Elem) (pre s : State) :
    (respond p st d pre s).pushed = s.pushed := rfl
@[simp] theorem respond_popped (p : Port) (st : Status) (d : Option Elem) (pre s : State) :
    (respond p st d pre s).popped = s.popped := rfl
@[simp] theorem respond_pushedGray (p : Port) (st : Status) (d : Option Elem) (pre s : State) :
    (respond p st d pre s).pushedGray = s.pushedGray := rfl
@[simp] theorem respond_poppedGray (p : Port) (st : Status) (d : Option Elem) (pre s : State) :
    (respond p st d pre s).poppedGray = s.poppedGray := rfl
@[simp] theorem respond_wsync (p : Port) (st : Status) (d : Option Elem) (pre s : State) :
    (respond p st d pre s).wsync = s.wsync := rfl
@[simp] theorem respond_rsync (p : Port) (st : Status) (d : Option Elem) (pre s : State) :
    (respond p st d pre s).rsync = s.rsync := rfl
@[simp] theorem respond_seq (p : Port) (st : Status) (d : Option Elem) (pre s : State) :
    (respond p st d pre s).seq = s.seq := rfl
@[simp] theorem respond_dropCount (p : Port) (st : Status) (d : Option Elem) (pre s : State) :
    (respond p st d pre s).dropCount = s.dropCount := rfl
@[simp] theorem respond_pushedGrayOld (p : Port) (st : Status) (d : Option Elem) (pre s : State) :
    (respond p st d pre s).pushedGrayOld = s.pushedGrayOld := rfl
@[simp] theorem respond_poppedGrayOld (p : Port) (st : Status) (d : Option Elem) (pre s : State) :
    (respond p st d pre s).poppedGrayOld = s.poppedGrayOld := rfl
@[simp] theorem respond_rstP (p : Port) (st : Status) (d : Option Elem) (pre s : State) :
    (respond p st d pre s).rstP = s.rstP := rfl
@[simp] theorem respond_rstC (p : Port) (st : Status) (d : Option Elem) (pre s : State) :
    (respond p st d pre s).rstC = s.rstC := rfl
@[simp] theorem respond_draws (p : Port) (st : Status) (d : Option Elem) (pre s : State) :
    (respond p st d pre s).draws = s.draws := rfl
@[simp] theorem respond_inputs (p : Port) (st : Status) (d : Option Elem) (pre s : State) :
    (respond p st d pre s).inputs = s.inputs := rfl
@[simp] theorem respond_agents (p : Port) (st : Status) (d : Option Elem) (pre s : State) :
    (respond p st d pre s).agents = s.agents := rfl

@[simp] theorem respondUnspecified_build (p : Port) (s : State) : (respondUnspecified p s).build = s.build := rfl
@[simp] theorem respondUnspecified_slots (p : Port) (s : State) : (respondUnspecified p s).slots = s.slots := rfl
@[simp] theorem respondUnspecified_pushed (p : Port) (s : State) : (respondUnspecified p s).pushed = s.pushed := rfl
@[simp] theorem respondUnspecified_popped (p : Port) (s : State) : (respondUnspecified p s).popped = s.popped := rfl
@[simp] theorem respondUnspecified_pushedGray (p : Port) (s : State) :
    (respondUnspecified p s).pushedGray = s.pushedGray := rfl
@[simp] theorem respondUnspecified_poppedGray (p : Port) (s : State) :
    (respondUnspecified p s).poppedGray = s.poppedGray := rfl
@[simp] theorem respondUnspecified_wsync (p : Port) (s : State) : (respondUnspecified p s).wsync = s.wsync := rfl
@[simp] theorem respondUnspecified_rsync (p : Port) (s : State) : (respondUnspecified p s).rsync = s.rsync := rfl
@[simp] theorem respondUnspecified_seq (p : Port) (s : State) : (respondUnspecified p s).seq = s.seq := rfl
@[simp] theorem respondUnspecified_dropCount (p : Port) (s : State) :
    (respondUnspecified p s).dropCount = s.dropCount := rfl
@[simp] theorem respondUnspecified_pushedGrayOld (p : Port) (s : State) :
    (respondUnspecified p s).pushedGrayOld = s.pushedGrayOld := rfl
@[simp] theorem respondUnspecified_poppedGrayOld (p : Port) (s : State) :
    (respondUnspecified p s).poppedGrayOld = s.poppedGrayOld := rfl
@[simp] theorem respondUnspecified_rstP (p : Port) (s : State) : (respondUnspecified p s).rstP = s.rstP := rfl
@[simp] theorem respondUnspecified_rstC (p : Port) (s : State) : (respondUnspecified p s).rstC = s.rstC := rfl
@[simp] theorem respondUnspecified_inputs (p : Port) (s : State) : (respondUnspecified p s).inputs = s.inputs := rfl
@[simp] theorem respondUnspecified_agents (p : Port) (s : State) : (respondUnspecified p s).agents = s.agents := rfl

@[simp] theorem respond_resp_producer (st : Status) (d : Option Elem) (pre s : State) :
    (respond .producer st d pre s).resp =
      { s.resp with producer := some { status := st, count := pre.pCount, full := pre.pFull } } := rfl
@[simp] theorem respond_resp_consumer (st : Status) (d : Option Elem) (pre s : State) :
    (respond .consumer st d pre s).resp =
      { s.resp with consumer := some { status := st, data := d, count := pre.cCount, empty := pre.cEmpty } } := rfl
@[simp] theorem respond_resp_ingest (st : Status) (d : Option Elem) (pre s : State) :
    (respond .ingest st d pre s).resp =
      { s.resp with ingest := some { status := st, seq := pre.seq, drops := pre.dropCount } } := rfl

/-! ### Reset -/

@[simp] theorem resetProducerSide_build (s : State) : (resetProducerSide s).build = s.build := rfl
@[simp] theorem resetProducerSide_popped (s : State) : (resetProducerSide s).popped = s.popped := rfl
@[simp] theorem resetProducerSide_poppedGray (s : State) : (resetProducerSide s).poppedGray = s.poppedGray := rfl
@[simp] theorem resetProducerSide_wsync (s : State) : (resetProducerSide s).wsync = s.wsync := rfl
@[simp] theorem resetProducerSide_poppedGrayOld (s : State) :
    (resetProducerSide s).poppedGrayOld = s.poppedGrayOld := rfl
@[simp] theorem resetProducerSide_rstC (s : State) : (resetProducerSide s).rstC = s.rstC := rfl
@[simp] theorem resetProducerSide_resp (s : State) : (resetProducerSide s).resp = s.resp := rfl
@[simp] theorem resetProducerSide_draws (s : State) : (resetProducerSide s).draws = s.draws := rfl
@[simp] theorem resetProducerSide_inputs (s : State) : (resetProducerSide s).inputs = s.inputs := rfl
@[simp] theorem resetProducerSide_agents (s : State) : (resetProducerSide s).agents = s.agents := rfl

@[simp] theorem resetConsumerSide_build (s : State) : (resetConsumerSide s).build = s.build := rfl
@[simp] theorem resetConsumerSide_slots (s : State) : (resetConsumerSide s).slots = s.slots := rfl
@[simp] theorem resetConsumerSide_pushed (s : State) : (resetConsumerSide s).pushed = s.pushed := rfl
@[simp] theorem resetConsumerSide_pushedGray (s : State) : (resetConsumerSide s).pushedGray = s.pushedGray := rfl
@[simp] theorem resetConsumerSide_rsync (s : State) : (resetConsumerSide s).rsync = s.rsync := rfl
@[simp] theorem resetConsumerSide_seq (s : State) : (resetConsumerSide s).seq = s.seq := rfl
@[simp] theorem resetConsumerSide_dropCount (s : State) : (resetConsumerSide s).dropCount = s.dropCount := rfl
@[simp] theorem resetConsumerSide_pushedGrayOld (s : State) :
    (resetConsumerSide s).pushedGrayOld = s.pushedGrayOld := rfl
@[simp] theorem resetConsumerSide_rstP (s : State) : (resetConsumerSide s).rstP = s.rstP := rfl
@[simp] theorem resetConsumerSide_resp (s : State) : (resetConsumerSide s).resp = s.resp := rfl
@[simp] theorem resetConsumerSide_draws (s : State) : (resetConsumerSide s).draws = s.draws := rfl
@[simp] theorem resetConsumerSide_inputs (s : State) : (resetConsumerSide s).inputs = s.inputs := rfl
@[simp] theorem resetConsumerSide_agents (s : State) : (resetConsumerSide s).agents = s.agents := rfl

@[simp] theorem assertReset_build (s : State) : (assertReset s).build = s.build := rfl
@[simp] theorem assertReset_slots (s : State) : (assertReset s).slots = s.slots := rfl
@[simp] theorem assertReset_pushed (s : State) : (assertReset s).pushed = s.pushed := rfl
@[simp] theorem assertReset_popped (s : State) : (assertReset s).popped = s.popped := rfl
@[simp] theorem assertReset_pushedGray (s : State) : (assertReset s).pushedGray = s.pushedGray := rfl
@[simp] theorem assertReset_poppedGray (s : State) : (assertReset s).poppedGray = s.poppedGray := rfl
@[simp] theorem assertReset_wsync (s : State) : (assertReset s).wsync = s.wsync := rfl
@[simp] theorem assertReset_rsync (s : State) : (assertReset s).rsync = s.rsync := rfl
@[simp] theorem assertReset_seq (s : State) : (assertReset s).seq = s.seq := rfl
@[simp] theorem assertReset_dropCount (s : State) : (assertReset s).dropCount = s.dropCount := rfl
@[simp] theorem assertReset_pushedGrayOld (s : State) : (assertReset s).pushedGrayOld = s.pushedGrayOld := rfl
@[simp] theorem assertReset_poppedGrayOld (s : State) : (assertReset s).poppedGrayOld = s.poppedGrayOld := rfl
@[simp] theorem assertReset_resp (s : State) : (assertReset s).resp = s.resp := rfl
@[simp] theorem assertReset_draws (s : State) : (assertReset s).draws = s.draws := rfl
@[simp] theorem assertReset_inputs (s : State) : (assertReset s).inputs = s.inputs := rfl
@[simp] theorem assertReset_agents (s : State) : (assertReset s).agents = s.agents := rfl

@[simp] theorem resetEdge_build (d : Domain) (s : State) : (resetEdge d s).build = s.build := by
  unfold resetEdge; split <;> rfl
@[simp] theorem resetEdge_resp (d : Domain) (s : State) : (resetEdge d s).resp = s.resp := by
  unfold resetEdge; split <;> rfl
@[simp] theorem resetEdge_draws (d : Domain) (s : State) : (resetEdge d s).draws = s.draws := by
  unfold resetEdge; split <;> rfl
@[simp] theorem resetEdge_inputs (d : Domain) (s : State) : (resetEdge d s).inputs = s.inputs := by
  unfold resetEdge; split <;> rfl
@[simp] theorem resetEdge_agents (d : Domain) (s : State) : (resetEdge d s).agents = s.agents := by
  unfold resetEdge; split <;> rfl

/-! ### The crossing and the agents -/

@[simp] theorem capture_build (d : Domain) (late : Bool) (s : State) : (capture d late s).build = s.build := by
  unfold capture; split <;> rfl
@[simp] theorem capture_slots (d : Domain) (late : Bool) (s : State) : (capture d late s).slots = s.slots := by
  unfold capture; split <;> rfl
@[simp] theorem capture_pushed (d : Domain) (late : Bool) (s : State) : (capture d late s).pushed = s.pushed := by
  unfold capture; split <;> rfl
@[simp] theorem capture_popped (d : Domain) (late : Bool) (s : State) : (capture d late s).popped = s.popped := by
  unfold capture; split <;> rfl
@[simp] theorem capture_pushedGray (d : Domain) (late : Bool) (s : State) :
    (capture d late s).pushedGray = s.pushedGray := by
  unfold capture; split <;> rfl
@[simp] theorem capture_poppedGray (d : Domain) (late : Bool) (s : State) :
    (capture d late s).poppedGray = s.poppedGray := by
  unfold capture; split <;> rfl
@[simp] theorem capture_seq (d : Domain) (late : Bool) (s : State) : (capture d late s).seq = s.seq := by
  unfold capture; split <;> rfl
@[simp] theorem capture_dropCount (d : Domain) (late : Bool) (s : State) :
    (capture d late s).dropCount = s.dropCount := by
  unfold capture; split <;> rfl
@[simp] theorem capture_rstP (d : Domain) (late : Bool) (s : State) : (capture d late s).rstP = s.rstP := by
  unfold capture; split <;> rfl
@[simp] theorem capture_rstC (d : Domain) (late : Bool) (s : State) : (capture d late s).rstC = s.rstC := by
  unfold capture; split <;> rfl
@[simp] theorem capture_resp (d : Domain) (late : Bool) (s : State) : (capture d late s).resp = s.resp := by
  unfold capture; split <;> rfl
@[simp] theorem capture_draws (d : Domain) (late : Bool) (s : State) : (capture d late s).draws = s.draws := by
  unfold capture; split <;> rfl
@[simp] theorem capture_inputs (d : Domain) (late : Bool) (s : State) : (capture d late s).inputs = s.inputs := by
  unfold capture; split <;> rfl
@[simp] theorem capture_agents (d : Domain) (late : Bool) (s : State) : (capture d late s).agents = s.agents := by
  unfold capture; split <;> rfl

@[simp] theorem setAgent_build (k : Nat) (a : Agent) (s : State) : (setAgent k a s).build = s.build := rfl
@[simp] theorem setAgent_slots (k : Nat) (a : Agent) (s : State) : (setAgent k a s).slots = s.slots := rfl
@[simp] theorem setAgent_pushed (k : Nat) (a : Agent) (s : State) : (setAgent k a s).pushed = s.pushed := rfl
@[simp] theorem setAgent_popped (k : Nat) (a : Agent) (s : State) : (setAgent k a s).popped = s.popped := rfl
@[simp] theorem setAgent_pushedGray (k : Nat) (a : Agent) (s : State) :
    (setAgent k a s).pushedGray = s.pushedGray := rfl
@[simp] theorem setAgent_poppedGray (k : Nat) (a : Agent) (s : State) :
    (setAgent k a s).poppedGray = s.poppedGray := rfl
@[simp] theorem setAgent_wsync (k : Nat) (a : Agent) (s : State) : (setAgent k a s).wsync = s.wsync := rfl
@[simp] theorem setAgent_rsync (k : Nat) (a : Agent) (s : State) : (setAgent k a s).rsync = s.rsync := rfl
@[simp] theorem setAgent_seq (k : Nat) (a : Agent) (s : State) : (setAgent k a s).seq = s.seq := rfl
@[simp] theorem setAgent_dropCount (k : Nat) (a : Agent) (s : State) : (setAgent k a s).dropCount = s.dropCount := rfl
@[simp] theorem setAgent_pushedGrayOld (k : Nat) (a : Agent) (s : State) :
    (setAgent k a s).pushedGrayOld = s.pushedGrayOld := rfl
@[simp] theorem setAgent_poppedGrayOld (k : Nat) (a : Agent) (s : State) :
    (setAgent k a s).poppedGrayOld = s.poppedGrayOld := rfl
@[simp] theorem setAgent_rstP (k : Nat) (a : Agent) (s : State) : (setAgent k a s).rstP = s.rstP := rfl
@[simp] theorem setAgent_rstC (k : Nat) (a : Agent) (s : State) : (setAgent k a s).rstC = s.rstC := rfl
@[simp] theorem setAgent_resp (k : Nat) (a : Agent) (s : State) : (setAgent k a s).resp = s.resp := rfl
@[simp] theorem setAgent_draws (k : Nat) (a : Agent) (s : State) : (setAgent k a s).draws = s.draws := rfl
@[simp] theorem setAgent_inputs (k : Nat) (a : Agent) (s : State) : (setAgent k a s).inputs = s.inputs := rfl

@[simp] theorem mergeCycle_build (t u : State) : (mergeCycle t u).build = t.build := rfl
@[simp] theorem mergeCycle_slots (t u : State) : (mergeCycle t u).slots = t.slots := rfl
@[simp] theorem mergeCycle_pushed (t u : State) : (mergeCycle t u).pushed = t.pushed := rfl
@[simp] theorem mergeCycle_pushedGray (t u : State) : (mergeCycle t u).pushedGray = t.pushedGray := rfl
@[simp] theorem mergeCycle_poppedGray (t u : State) : (mergeCycle t u).poppedGray = t.poppedGray := rfl
@[simp] theorem mergeCycle_wsync (t u : State) : (mergeCycle t u).wsync = t.wsync := rfl
@[simp] theorem mergeCycle_rsync (t u : State) : (mergeCycle t u).rsync = t.rsync := rfl
@[simp] theorem mergeCycle_seq (t u : State) : (mergeCycle t u).seq = t.seq := rfl
@[simp] theorem mergeCycle_dropCount (t u : State) : (mergeCycle t u).dropCount = t.dropCount := rfl
@[simp] theorem mergeCycle_pushedGrayOld (t u : State) : (mergeCycle t u).pushedGrayOld = t.pushedGrayOld := rfl
@[simp] theorem mergeCycle_poppedGrayOld (t u : State) : (mergeCycle t u).poppedGrayOld = t.poppedGrayOld := rfl
@[simp] theorem mergeCycle_rstP (t u : State) : (mergeCycle t u).rstP = t.rstP := rfl
@[simp] theorem mergeCycle_rstC (t u : State) : (mergeCycle t u).rstC = t.rstC := rfl
@[simp] theorem mergeCycle_draws (t u : State) : (mergeCycle t u).draws = t.draws := rfl
@[simp] theorem mergeCycle_inputs (t u : State) : (mergeCycle t u).inputs = t.inputs := rfl
@[simp] theorem mergeCycle_agents (t u : State) : (mergeCycle t u).agents = t.agents := rfl

/-! ### The outputs after `respond`, which changes no counter -/

@[simp] theorem respond_cap (p : Port) (st : Status) (d : Option Elem) (pre s : State) :
    (respond p st d pre s).cap = s.cap := rfl
@[simp] theorem respond_occupancy (p : Port) (st : Status) (d : Option Elem) (pre s : State) :
    (respond p st d pre s).occupancy = s.occupancy := rfl
@[simp] theorem respond_poppedSeenP (p : Port) (st : Status) (d : Option Elem) (pre s : State) :
    (respond p st d pre s).poppedSeenP = s.poppedSeenP := rfl
@[simp] theorem respond_pushedSeenC (p : Port) (st : Status) (d : Option Elem) (pre s : State) :
    (respond p st d pre s).pushedSeenC = s.pushedSeenC := rfl
@[simp] theorem respond_poppedView (p : Port) (st : Status) (d : Option Elem) (pre s : State) :
    (respond p st d pre s).poppedView = s.poppedView := rfl
@[simp] theorem respond_pushedView (p : Port) (st : Status) (d : Option Elem) (pre s : State) :
    (respond p st d pre s).pushedView = s.pushedView := rfl
@[simp] theorem respond_pCount (p : Port) (st : Status) (d : Option Elem) (pre s : State) :
    (respond p st d pre s).pCount = s.pCount := rfl
@[simp] theorem respond_pFull (p : Port) (st : Status) (d : Option Elem) (pre s : State) :
    (respond p st d pre s).pFull = s.pFull := rfl
@[simp] theorem respond_cCount (p : Port) (st : Status) (d : Option Elem) (pre s : State) :
    (respond p st d pre s).cCount = s.cCount := rfl
@[simp] theorem respond_cEmpty (p : Port) (st : Status) (d : Option Elem) (pre s : State) :
    (respond p st d pre s).cEmpty = s.cEmpty := rfl
@[simp] theorem respond_head (p : Port) (st : Status) (d : Option Elem) (pre s : State) :
    (respond p st d pre s).head = s.head := rfl
@[simp] theorem respond_slot (p : Port) (st : Status) (d : Option Elem) (pre s : State) (i : Nat) :
    (respond p st d pre s).slot i = s.slot i := rfl
@[simp] theorem contents_respond (p : Port) (st : Status) (d : Option Elem) (pre s : State) :
    contents (respond p st d pre s) = contents s := rfl
@[simp] theorem ringFault_respond (p : Port) (st : Status) (d : Option Elem) (pre s : State) :
    ringFault (respond p st d pre s) = ringFault s := rfl
@[simp] theorem store_cap (v : Elem) (s : State) : (s.store v).cap = s.cap := by simp [State.cap]
@[simp] theorem take_cap (s : State) : s.take.cap = s.cap := by simp [State.cap]
@[simp] theorem capture_cap (d : Domain) (late : Bool) (s : State) : (capture d late s).cap = s.cap := by
  simp [State.cap]

end Sys2Proof.Machine
end

