-- ==== Sys2Proof/Laws/Operate.lean ====
section
/-! SUPPORT. What the shared conditions of a request let through: one equation where the port is ready, and one
inversion lemma; the same for a sync step. -/

namespace Sys2Proof.Machine

/-- Out of the states the spec gives no step: the counters are in range, and the occupancy and the views are within
their bounds (R22, R39, R67). -/
theorem ringFault_none {s : State} : ringFault s = none ↔
    s.pushed < 2 * s.cap ∧ s.popped < 2 * s.cap ∧ s.occupancy ≤ s.cap ∧ s.pCount ≤ s.cap ∧ s.occupancy ≤ s.pCount
      ∧ s.cCount ≤ s.occupancy := by
  unfold ringFault
  split
  · simp; omega
  · split
    · simp; omega
    · split
      · simp; omega
      · simp; omega

/-- Out of reset the faults of a state are the ring's. -/
theorem stateFault_running {s : State} (h : Running s) : stateFault s = ringFault s := by
  simp [stateFault, midReset, h.1]

/-- What a guarded step that answers a next state has met. -/
theorem guarded_next {s t : State} {r : Result} (h : guarded s r = .next t) :
    s.build.legal = true ∧ stateFault s = none ∧ r = .next t := by
  unfold guarded at h
  split at h
  · simp at h
  · split at h
    · simp at h
    · exact ⟨by simp_all, by assumption, h⟩

/-- In a legal build and a state that is no fault, a guarded step takes its effect. -/
theorem guarded_ok {s : State} {r : Result} (hl : s.build.legal = true) (hf : stateFault s = none) :
    guarded s r = r := by
  simp [guarded, hl, hf]

/-- A ready port performs an operation that fits it. -/
theorem operate_ready {i : Instr} {s : State} {op : State → Result} (h : Ready i.port s)
    (hf : i.fits s.build = true) : operate i s op = op s := by
  obtain ⟨hl, hp, ⟨h1, h2⟩, hr⟩ := h
  have hs := (stateFault_running ⟨h1, h2⟩).trans hr
  simp [operate, hl, hp, hf, h1, h2, hs]

/-- What an operation that answers a next state has met: out of reset, a ready port and its own effect; under `rst`,
the reset edge of its domain and an unspecified response. -/
theorem operate_next {i : Instr} {s t : State} {op : State → Result} (h : operate i s op = .next t) :
    (Ready i.port s ∧ i.fits s.build = true ∧ op s = .next t)
      ∨ (s.rstP ≠ .released ∧ s.rstC ≠ .released
          ∧ t = respondUnspecified i.port (resetEdge (domainOf i.port) s)) := by
  unfold operate at h
  split at h
  · simp at h
  split at h
  · simp at h
  split at h
  · simp at h
  split at h
  · simp at h
  rename_i hs
  split at h
  · rename_i h1 h2
    rw [stateFault_running ⟨h1, h2⟩] at hs
    exact .inl ⟨⟨by simp_all, by simp_all, ⟨h1, h2⟩, hs⟩, by simp_all, h⟩
  · exact .inr ⟨by simp_all, by simp_all, by simpa using h.symm⟩
  · simp at h
  · simp at h

/-- Out of reset, an operation that answers a next state is its own effect on a ready port. -/
theorem operate_next_running {i : Instr} {s t : State} {op : State → Result} (hr : Running s)
    (h : operate i s op = .next t) : Ready i.port s ∧ i.fits s.build = true ∧ op s = .next t := by
  rcases operate_next h with h | ⟨h, _⟩
  · exact h
  · exact absurd hr.1 h

/-- A request that fits its port does not end in a refusal out of reset, and faults only in a state the spec gives no
step. -/
theorem operate_running {i : Instr} {s : State} {op : State → Result} (hl : s.build.legal = true)
    (hw : i.wellFormed s.build = true) (hr : Running s) :
    operate i s op = match ringFault s with
      | some f => .fault f
      | none => op s := by
  obtain ⟨hp, hf⟩ : s.build.hasPort i.port = true ∧ i.fits s.build = true := by
    simpa [Instr.wellFormed] using hw
  rw [← stateFault_running hr]
  cases hf' : stateFault s <;> simp [operate, hl, hp, hf, hr.1, hr.2, hf']

/-- What a sync step that answers a next state has met. -/
theorem syncStep_next {d : Domain} {k : Nat} {s t : State} (h : syncStep d k s = .next t) :
    s.build.legal = true ∧ s.build.clocking = .async ∧ Running s ∧ ringFault s = none ∧ syncBy d k s = .next t := by
  obtain ⟨hl, hf, h⟩ := guarded_next h
  split at h
  · simp at h
  split at h
  · rename_i hr
    exact ⟨hl, by assumption, hr, (stateFault_running hr).symm.trans hf, h⟩
  · simp at h

/-- Counters in range that meet their invariant leave no fault to the ring. -/
theorem CountersInv.ringFault_none {s : State} (h : CountersInv s) (h1 : s.pushed < 2 * s.cap)
    (h2 : s.popped < 2 * s.cap) : ringFault s = none :=
  Machine.ringFault_none.mpr ⟨h1, h2, h.1, h.2.2.1, h.2.1, h.2.2.2.1⟩

/-- The invariant out of reset leaves no fault to the ring. -/
theorem ringFault_none_of_inv {s : State} (h : BlockInv s) (hr : Running s) : ringFault s = none :=
  (h.2.2.2.2.1 hr).1.ringFault_none h.2.2.1 h.2.2.2.1

/-- A port of a block that meets its invariant is ready. -/
theorem Live.ready {p : Port} {s : State} (h : Live p s) : Ready p s :=
  ⟨h.1.1, h.2.2, h.2.1, ringFault_none_of_inv h.1 h.2.1⟩

end Sys2Proof.Machine
end

