-- ==== Sys2Proof/Laws/Exec.lean ====
section
/-! SUPPORT. What each operation does on a ready port, as one equation each, and one inversion lemma: everything an
operation that answers a next state can have done out of reset. -/

namespace Sys2Proof.Machine

variable {s t : State}

theorem exec_nopP {v : Elem} (h : Ready .producer s) (hv : v < 2 ^ s.build.width) :
    exec (.nopP v) s = .next (respond .producer .ok none s s) := by
  simp only [exec, execNopP]; rw [operate_ready h (by simpa [Instr.fits] using hv)]; rfl

theorem exec_push {v : Elem} (h : Ready .producer s) (hv : v < 2 ^ s.build.width) :
    exec (.push v) s = if s.pCount = s.cap then .next (respond .producer .full none s s)
      else .next (respond .producer .ok none s (s.store v)) := by
  simp only [exec, execPush]; rw [operate_ready h (by simpa [Instr.fits] using hv)]; rfl

theorem exec_pendingP {v : Elem} (h : Ready .producer s) (hv : v < 2 ^ s.build.width) :
    exec (.pendingP v) s = .next (respond .producer .ok none s s) := by
  simp only [exec, execPendingP]; rw [operate_ready h (by simpa [Instr.fits] using hv)]; rfl

theorem exec_illegalP {v : Elem} (h : Ready .producer s) (hv : v < 2 ^ s.build.width) :
    exec (.illegalP v) s = .next (respond .producer .illegal none s s) := by
  simp only [exec, execIllegalP]; rw [operate_ready h (by simpa [Instr.fits] using hv)]; rfl

theorem exec_nopC (h : Ready .consumer s) : exec .nopC s = .next (respond .consumer .ok none s s) := by
  simp only [exec, execNopC]; rw [operate_ready h rfl]; rfl

theorem exec_pop (h : Ready .consumer s) :
    exec .pop s = if s.cCount = 0 then .next (respond .consumer .emptyOrNoMessage none s s)
      else match s.head with
        | none => .fault .slotUnwritten
        | some e => .next (respond .consumer .ok (some e) s s.take) := by
  simp only [exec, execPop]; rw [operate_ready h rfl]; rfl

theorem exec_peek (h : Ready .consumer s) :
    exec .peek s = if s.cCount = 0 then .next (respond .consumer .emptyOrNoMessage none s s)
      else match s.head with
        | none => .fault .slotUnwritten
        | some e => .next (respond .consumer .ok (some e) s s) := by
  simp only [exec, execPeek]; rw [operate_ready h rfl]; rfl

theorem exec_pendingC (h : Ready .consumer s) : exec .pendingC s = .next (respond .consumer .ok none s s) := by
  simp only [exec, execPendingC]; rw [operate_ready h rfl]; rfl

theorem exec_nopI {m : Bool} {f : Nat} (h : Ready .ingest s) (hf : f < 2 ^ s.build.frameWidth) :
    exec (.nopI m f) s = .next (respond .ingest .ok none s s) := by
  simp only [exec, execNopI]; rw [operate_ready h (by simpa [Instr.fits] using hf)]; rfl

theorem exec_ingest_none {f : Nat} (h : Ready .ingest s) (hf : f < 2 ^ s.build.frameWidth) :
    exec (.ingest false f) s = .next (respond .ingest .emptyOrNoMessage none s s) := by
  simp only [exec, execIngest]; rw [operate_ready h (by simpa [Instr.fits] using hf)]; rfl

theorem exec_ingest {f : Nat} (h : Ready .ingest s) (hf : f < 2 ^ s.build.frameWidth) :
    exec (.ingest true f) s =
      if s.pCount = s.cap then
        .next (respond .ingest .full none s { s with seq := s.seq + 1, dropCount := s.dropCount + 1 })
      else .next (respond .ingest .ok none s
        (State.store (stampedElement f (nextStamp s)) { s with seq := s.seq + 1 })) := by
  simp only [exec, execIngest]; rw [operate_ready h (by simpa [Instr.fits] using hf)]; rfl

/-- An operation that answers a next state out of reset was on a ready port, with operands that fit it. -/
theorem exec_next_ready {i : Instr} (hr : Running s) (h : exec i s = .next t) :
    Ready i.port s ∧ i.fits s.build = true := by
  cases i <;>
    · simp only [exec, execNopP, execPush, execPendingP, execIllegalP, execNopC, execPop, execPeek, execPendingC,
        execNopI, execIngest] at h
      exact ⟨(operate_next_running hr h).1, (operate_next_running hr h).2.1⟩

/-- Everything an operation that answers a next state can have done, out of reset: answered and written nothing; stored
an element; taken the head; or, for INGEST, stamped a frame and counted its drop, or stamped and stored it. -/
theorem exec_cases {i : Instr} (hr : Running s) (h : exec i s = .next t) :
    (∃ st d, t = respond i.port st d s s ∧ (∀ v, i = .push v → st = .full) ∧ (i = .pop → s.cCount = 0 ∧ d = none)
        ∧ ∀ f, i ≠ .ingest true f)
      ∨ (∃ v, i = .push v ∧ v < 2 ^ s.build.width ∧ s.pCount ≠ s.cap
          ∧ t = respond .producer .ok none s (s.store v))
      ∨ (∃ e, i = .pop ∧ s.cCount ≠ 0 ∧ s.head = some e ∧ t = respond .consumer .ok (some e) s s.take)
      ∨ (∃ f, i = .ingest true f ∧ s.pCount = s.cap
          ∧ t = respond .ingest .full none s { s with seq := s.seq + 1, dropCount := s.dropCount + 1 })
      ∨ (∃ f, i = .ingest true f ∧ f < 2 ^ s.build.frameWidth ∧ s.pCount ≠ s.cap
          ∧ t = respond .ingest .ok none s
              (State.store (stampedElement f (nextStamp s)) { s with seq := s.seq + 1 })) := by
  obtain ⟨hd, hf⟩ := exec_next_ready hr h
  cases i with
  | nopP v =>
    rw [exec_nopP hd (by simpa [Instr.fits] using hf)] at h
    exact .inl ⟨_, _, (Host.Outcome.next.inj h).symm, by simp⟩
  | push v =>
    have hv : v < 2 ^ s.build.width := by simpa [Instr.fits] using hf
    rw [exec_push hd hv] at h
    split at h
    · exact .inl ⟨_, _, (Host.Outcome.next.inj h).symm, by simp⟩
    · exact .inr (.inl ⟨v, rfl, hv, by assumption, (Host.Outcome.next.inj h).symm⟩)
  | pendingP v =>
    rw [exec_pendingP hd (by simpa [Instr.fits] using hf)] at h
    exact .inl ⟨_, _, (Host.Outcome.next.inj h).symm, by simp⟩
  | illegalP v =>
    rw [exec_illegalP hd (by simpa [Instr.fits] using hf)] at h
    exact .inl ⟨_, _, (Host.Outcome.next.inj h).symm, by simp⟩
  | nopC =>
    rw [exec_nopC hd] at h
    exact .inl ⟨_, _, (Host.Outcome.next.inj h).symm, by simp⟩
  | pop =>
    rw [exec_pop hd] at h
    split at h
    · exact .inl ⟨_, _, (Host.Outcome.next.inj h).symm, by simp; assumption⟩
    · split at h
      · simp at h
      · exact .inr (.inr (.inl ⟨_, rfl, by assumption, by assumption, (Host.Outcome.next.inj h).symm⟩))
  | peek =>
    rw [exec_peek hd] at h
    split at h
    · exact .inl ⟨_, _, (Host.Outcome.next.inj h).symm, by simp⟩
    · split at h
      · simp at h
      · exact .inl ⟨_, _, (Host.Outcome.next.inj h).symm, by simp⟩
  | pendingC =>
    rw [exec_pendingC hd] at h
    exact .inl ⟨_, _, (Host.Outcome.next.inj h).symm, by simp⟩
  | nopI m f =>
    rw [exec_nopI hd (by simpa [Instr.fits] using hf)] at h
    exact .inl ⟨_, _, (Host.Outcome.next.inj h).symm, by simp⟩
  | ingest m f =>
    have hw : f < 2 ^ s.build.frameWidth := by simpa [Instr.fits] using hf
    cases m with
    | false =>
      rw [exec_ingest_none hd hw] at h
      exact .inl ⟨_, _, (Host.Outcome.next.inj h).symm, by simp⟩
    | true =>
      rw [exec_ingest hd hw] at h
      split at h
      · exact .inr (.inr (.inr (.inl ⟨f, rfl, by assumption, (Host.Outcome.next.inj h).symm⟩)))
      · exact .inr (.inr (.inr (.inr ⟨f, rfl, hw, by assumption, (Host.Outcome.next.inj h).symm⟩)))

/-- Out of reset, an operation keeps the build, the reset lines, the draws, the inputs and the agents. -/
theorem exec_surroundings {i : Instr} (hr : Running s) (h : exec i s = .next t) :
    t.build = s.build ∧ Running t ∧ t.draws = s.draws ∧ t.inputs = s.inputs ∧ t.agents = s.agents := by
  rcases exec_cases hr h with ⟨st, d, rfl, -⟩ | ⟨v, -, -, -, rfl⟩ | ⟨e, -, -, -, rfl⟩ | ⟨f, -, -, rfl⟩
    | ⟨f, -, -, -, rfl⟩ <;> simpa [Running] using hr

end Sys2Proof.Machine
end

