-- ==== Sys2Proof/Laws/Gray.lean ====
section
/-! SUPPORT. Small facts of the Gray code of R62 and R63: shifts, widths and the recursion of the decoding. -/

namespace Sys2Proof.Machine

variable {w x : Nat}

theorem gray_shift (x : Nat) : gray x >>> 1 = gray (x >>> 1) := by
  simp [gray, Nat.shiftRight_xor_distrib]

theorem half_lt (h : x < 2 ^ (w + 1)) : x >>> 1 < 2 ^ w := by
  rw [Nat.shiftRight_eq_div_pow]
  rw [Nat.pow_succ] at h
  omega

theorem gray_lt (h : x < 2 ^ w) : gray x < 2 ^ w := by
  refine Nat.xor_lt_two_pow h (Nat.lt_of_le_of_lt ?_ h)
  rw [Nat.shiftRight_eq_div_pow]
  exact Nat.div_le_self _ _

@[simp] theorem bin_zero (w : Nat) : bin w 0 = 0 := by
  induction w with
  | zero => rfl
  | succ w ih => simp [bin, ih]

theorem bin_lt (h : x < 2 ^ w) : bin w x < 2 ^ w := by
  induction w generalizing x with
  | zero => simp [bin]
  | succ w ih =>
    refine Nat.xor_lt_two_pow h (Nat.lt_trans (ih (half_lt h)) ?_)
    rw [Nat.pow_succ]
    have := Nat.one_le_two_pow (n := w)
    omega

/-- A width that holds the code can be widened. -/
theorem bin_widen (h : x < 2 ^ w) : bin (w + 1) x = bin w x := by
  induction w generalizing x with
  | zero => simp at h; subst h; rfl
  | succ w ih => rw [bin, ih (half_lt h)]; rfl

/-- R63 as one equation at a fixed width. -/
theorem bin_rec (h : x < 2 ^ w) : bin w x = x ^^^ bin w (x >>> 1) := by
  rw [← bin_widen h, bin]

theorem bin_shift (h : x < 2 ^ w) : bin w x >>> 1 = bin w (x >>> 1) := by
  induction w generalizing x with
  | zero => simp at h; subst h; rfl
  | succ w ih => rw [bin, Nat.shiftRight_xor_distrib, ih (half_lt h), ← bin]

end Sys2Proof.Machine
end

