-- ==== Sys2Proof/Laws/Inputs.lean ====
section
/-! SUPPORT. One inversion lemma for each thing an input can do besides an operation out of reset: everything it can
have done where it answered a next state. -/

namespace Sys2Proof.Machine

variable {s t : State}

/-- The decoder gives only operations of the port it is asked about (R81 to R83). -/
theorem decode_port {b : Build} {p : Port} {w : Nat} {i : Instr} (h : decode b p w = .ok i) : i.port = p := by
  unfold decode at h
  split at h
  · simp at h
  split at h
  · simp at h
  cases p <;> simp at h <;> subst h
  · unfold decodeProducer; split <;> rfl
  · unfold decodeConsumer; split <;> rfl
  · unfold decodeIngest; split <;> rfl

theorem runRequest_next {p : Port} {bits : Nat} (h : runRequest p bits s = .next t) :
    ∃ i, decode s.build p bits = .ok i ∧ exec i s = .next t := by
  unfold runRequest at h
  split at h
  · exact ⟨_, by assumption, h⟩
  · simp at h
  · simp at h

/-- An operation that answers a next state is performed out of reset, or is ignored under `rst` (R180). -/
theorem exec_next {i : Instr} (h : exec i s = .next t) :
    Running s ∨ s.rstP ≠ .released ∧ s.rstC ≠ .released
      ∧ t = respondUnspecified i.port (resetEdge (domainOf i.port) s) := by
  by_cases hr : Running s
  · exact .inl hr
  · refine .inr ?_
    cases i <;>
      · simp only [exec, execNopP, execPush, execPendingP, execIllegalP, execNopC, execPop, execPeek, execPendingC,
          execNopI, execIngest] at h
        rcases operate_next h with h | h
        · exact absurd h.1.2.2.1 hr
        · exact h

/-- What a clock edge with no request does (R175, R180). -/
theorem idleEdge_next {d : Domain} {late : Bool} (h : idleEdge d late s = .next t) :
    s.build.legal = true
      ∧ (resetLineOf d s ≠ .released ∧ t = respondUnspecified (portOf s.build d) (resetEdge d s)
        ∨ resetLineOf d s = .released ∧ t = capture d late (respond (portOf s.build d) .ok none s s)) := by
  obtain ⟨hl, _, h⟩ := guarded_next h
  refine ⟨hl, ?_⟩
  split at h
  · exact .inl ⟨by simp_all, (Host.Outcome.next.inj h).symm⟩
  · exact .inr ⟨by assumption, (Host.Outcome.next.inj h).symm⟩

/-- What a clock edge does: the idle edge, or the port's operation and then, out of reset, the shift of the chain. -/
theorem runEdge_next {d : Domain} {bits : Option Nat} {late : Bool} (h : runEdge d bits late s = .next t) :
    bits = none ∧ idleEdge d late s = .next t
      ∨ ∃ i u, i.port = portOf s.build d ∧ exec i s = .next u
          ∧ t = if resetLineOf d s = .released then capture d late u else u := by
  unfold runEdge at h
  split at h
  · exact .inl ⟨rfl, h⟩
  · split at h
    · rename_i u hu
      obtain ⟨i, hd, hx⟩ := runRequest_next hu
      exact .inr ⟨i, u, decode_port hd, hx, (Host.Outcome.next.inj h).symm⟩
    · simp at h
    · simp at h

/-- What two requests in one SYNC cycle do (R57). -/
theorem runSameCycle_next {v w : Nat} (h : runSameCycle v w s = .next t) :
    s.build.clocking = .sync ∧ ∃ i j u x, i.port = portOf s.build .producer ∧ j.port = .consumer
      ∧ exec i s = .next u ∧ exec j s = .next x ∧ t = mergeCycle u x := by
  unfold runSameCycle at h
  split at h
  · simp at h
  · refine ⟨by assumption, ?_⟩
    split at h <;> try (simp at h; done)
    rename_i u x h1 h2
    obtain ⟨i, hi, hx⟩ := runRequest_next h1
    obtain ⟨j, hj, hy⟩ := runRequest_next h2
    exact ⟨i, j, u, x, decode_port hi, decode_port hj, hx, hy, (Host.Outcome.next.inj h).symm⟩

/-- What a sync step changes: the chain of its side and the old value that the chain would capture (R65, R66). -/
theorem syncBy_next {d : Domain} {k : Nat} (h : syncBy d k s = .next t) :
    t = { s with rsync := t.rsync, wsync := t.wsync, pushedGrayOld := t.pushedGrayOld,
                 poppedGrayOld := t.poppedGrayOld } := by
  unfold syncBy at h
  cases d <;> simp only at h <;> split at h
  · rw [← Host.Outcome.next.inj h]
  · simp at h
  · rw [← Host.Outcome.next.inj h]
  · simp at h

/-- What a release of `rst` does, and when it may (R181). -/
theorem releaseReset_next {d : Domain} (h : releaseReset d s = .next t) :
    s.rstP.mayRelease = true ∧ s.rstC.mayRelease = true
      ∧ t = { s with rstP := t.rstP, rstC := t.rstC } ∧ (t.rstP = .released ∨ t.rstP = s.rstP)
      ∧ (t.rstC = .released ∨ t.rstC = s.rstC) := by
  unfold releaseReset at h
  split at h
  · rename_i hm
    simp only [Bool.and_eq_true] at hm
    refine ⟨hm.1, hm.2, ?_⟩
    split at h <;> rw [← Host.Outcome.next.inj h] <;> simp
  · simp at h

/-- What any step that answers a next state has met: singly driven ports, a legal build, and a state the spec gives a
step. -/
theorem composed_next {r : Result} (h : composed s r = .next t) :
    portsDistinct s = true ∧ s.build.legal = true ∧ stateFault s = none ∧ r = .next t := by
  unfold composed at h
  split at h
  · simp at h
  · exact ⟨by simp_all, guarded_next h⟩

/-- In a composition, a legal build and a state that a step asks for, the step takes its effect. -/
theorem composed_ok {r : Result} (hd : portsDistinct s = true) (hl : s.build.legal = true)
    (hf : stateFault s = none) : composed s r = r := by
  simp [composed, hd, guarded_ok hl hf]

/-- R191: the fairness is that of ASYNC sync steps only; a run of a SYNC build is fair as it is. -/
theorem weaklyFair_of_sync {d : Domain} {run : Nat → State} (h : ∀ n, (run n).build.clocking = .sync) :
    WeaklyFair d run := by
  intro n hn
  have := (hn n (Nat.le_refl n)).1
  rw [h n] at this
  exact absurd this (by simp)

/-- What an agent's step does: nothing, a local change of the agent, or its operation with the agent's update. -/
theorem agentStep_next {k : Nat} (h : agentStep k s = .next t) :
    t = s ∨ (∃ a, t = setAgent k a s) ∨ ∃ i u a, exec i s = .next u ∧ t = setAgent k a u := by
  unfold agentStep at h
  split at h
  · simp at h
  split at h
  · simp at h
  split at h
  · exact .inl (Host.Outcome.next.inj h).symm
  split at h
  · exact .inr (.inl ⟨_, (Host.Outcome.next.inj h).symm⟩)
  · split at h
    · exact .inr (.inr ⟨_, _, _, by assumption, (Host.Outcome.next.inj h).symm⟩)
    · simp at h
    · simp at h
  · exact .inr (.inl ⟨_, (Host.Outcome.next.inj h).symm⟩)

end Sys2Proof.Machine
end

