-- ==== Sys2Proof/Laws/Isr.lean ====
section
/-! SUPPORT. The check for hanging ISR scripts flags every script that hangs, and, where its search came to an end, no
other (R185). -/

namespace Sys2Proof.Machine

variable {a : Agent} {x y : Alone}

theorem AloneRun.trans {z : Alone} (h : AloneRun a x y) (k : AloneRun a y z) : AloneRun a x z := by
  induction h with
  | here => exact k
  | turn _ ih => exact .turn (ih k)
  | sync hx _ ih => exact .sync hx (ih k)

/-- What is closed under each next step is closed under runs. -/
theorem closed_run {xs : List Alone} (hc : Alone.closed a xs = true) (h : AloneRun a x y) (hx : x ∈ xs) : y ∈ xs := by
  have next : ∀ x ∈ xs, ∀ y ∈ x.nexts a, y ∈ xs := by
    simpa [Alone.closed, List.all_eq_true] using hc
  induction h with
  | here => exact hx
  | turn _ ih => exact ih (next _ hx _ (by simp [Alone.nexts]))
  | sync h0 _ ih => exact ih (next _ hx _ (by simp [Alone.nexts, Nat.ne_of_gt h0]))

/-- Every sync step can be taken at once. -/
theorem run_synced (x : Alone) : ∃ y, AloneRun a x y ∧ y.unseen = 0 := by
  induction hu : x.unseen generalizing x with
  | zero => exact ⟨x, .here x, hu⟩
  | succ u ih =>
    obtain ⟨y, hy, h0⟩ := ih x.seeOne (by simp [Alone.seeOne, hu])
    exact ⟨y, .sync (by omega) hy, h0⟩

/-- A script that ends alone has a run that ends. -/
theorem run_of_ends {fuel : Nat} (h : x.ends a fuel = true) : ∃ z, AloneRun a x z ∧ z.halted = true := by
  induction fuel generalizing x with
  | zero => exact ⟨x, .here x, h⟩
  | succ fuel ih =>
    rcases Bool.or_eq_true _ _ ▸ h with h | h
    · exact ⟨x, .here x, h⟩
    · obtain ⟨z, hz, hh⟩ := ih h
      exact ⟨z, .turn hz, hh⟩

theorem subset_explore (fuel : Nat) {frontier seen : List Alone} (h : x ∈ seen) :
    x ∈ Alone.explore a fuel frontier seen := by
  induction fuel generalizing frontier seen with
  | zero => exact h
  | succ fuel ih =>
    unfold Alone.explore
    split
    · exact h
    · exact ih (List.mem_append_right _ h)

/-- R185: every script that hangs is flagged. -/
theorem isrHangs_of_isrHang {b : Build} (h : IsrHang b a) : isrHangs b a = true := by
  obtain ⟨x, hx, y, hy, hz⟩ := h
  unfold isrHangs
  dsimp only
  generalize hS : Alone.explore a (Alone.fuel b a) (Alone.starts b a) (Alone.starts b a) = reached
  cases hc : Alone.closed a reached with
  | false => rfl
  | true =>
    obtain ⟨u, hu, h0⟩ := run_synced (a := a) y
    have he : u.ends a reached.length = false := by
      cases he : u.ends a reached.length with
      | false => rfl
      | true =>
        obtain ⟨z, hr, hh⟩ := run_of_ends he
        rw [hz z (hu.trans hr)] at hh
        cases hh
    simp only [Bool.not_true, Bool.false_or, List.any_eq_true]
    exact ⟨u, closed_run hc (hy.trans hu) (hS ▸ subset_explore _ hx), by simp [h0, he]⟩

@[simp] theorem turn_unseen (x : Alone) : (x.turn a).unseen = x.unseen := by
  unfold Alone.turn; split
  · rfl
  · split <;> rfl

/-- Once every sync step has been taken, a run is the script's own steps. -/
theorem run_iterate (h : AloneRun a x y) (hx : x.unseen = 0) : ∃ k, y = (Alone.turn a)^[k] x := by
  induction h with
  | here x => exact ⟨0, rfl⟩
  | turn _ ih =>
    obtain ⟨k, hk⟩ := ih (by simpa using hx)
    exact ⟨k + 1, hk⟩
  | sync h0 _ _ => omega

theorem run_of_iterate (k : Nat) (x : Alone) : AloneRun a x ((Alone.turn a)^[k] x) := by
  induction k generalizing x with
  | zero => exact .here x
  | succ k ih => exact .turn (ih _)

theorem ends_of_iterate {fuel k : Nat} (hk : k ≤ fuel) (h : ((Alone.turn a)^[k] x).halted = true) :
    x.ends a fuel = true := by
  induction fuel generalizing x k with
  | zero => obtain rfl : k = 0 := by omega
            exact h
  | succ fuel ih =>
    cases k with
    | zero => exact Bool.or_eq_true _ _ ▸ .inl h
    | succ k => exact Bool.or_eq_true _ _ ▸ .inr (ih (by omega) h)

/-- Among the points of a closed list, a script that has not ended in as many steps as there are points never ends: it has
come back to a point. -/
theorem never_of_not_ends {xs : List Alone} (hc : Alone.closed a xs = true) (hx : x ∈ xs)
    (h : x.ends a xs.length = false) (k : Nat) : ((Alone.turn a)^[k] x).halted = false := by
  have early : ∀ k ≤ xs.length, ((Alone.turn a)^[k] x).halted = false := fun k hk => by
    by_contra hh
    rw [ends_of_iterate hk (by simpa using hh)] at h
    cases h
  obtain ⟨i, j, hij, hj, he⟩ : ∃ i j, i < j ∧ j ≤ xs.length ∧ (Alone.turn a)^[i] x = (Alone.turn a)^[j] x := by
    obtain ⟨i, hi, j, hj, hne, he⟩ := Finset.exists_ne_map_eq_of_card_lt_of_maps_to
      (s := Finset.range (xs.length + 1)) (t := xs.toFinset) (f := fun k => (Alone.turn a)^[k] x)
      (by have := xs.toFinset_card_le; rw [Finset.card_range]; omega)
      (fun k _ => by simpa using closed_run hc (run_of_iterate k x) hx)
    rw [Finset.mem_range] at hi hj
    rcases Nat.lt_or_gt_of_ne hne with h | h
    · exact ⟨i, j, h, by omega, he⟩
    · exact ⟨j, i, h, by omega, he.symm⟩
  induction k using Nat.strong_induction_on with
  | _ k ih =>
    by_cases hk : k ≤ xs.length
    · exact early k hk
    · have e : (Alone.turn a)^[k] x = (Alone.turn a)^[k - j + i] x := by
        conv_lhs => rw [show k = k - j + j by omega]
        rw [Function.iterate_add_apply, ← he, ← Function.iterate_add_apply]
      rw [e]
      exact ih _ (by omega)

/-- Every point the search finds comes of the points it starts from. -/
theorem explore_run {fuel : Nat} {xs frontier seen : List Alone} (hf : ∀ y ∈ frontier, ∃ x ∈ xs, AloneRun a x y)
    (hs : ∀ y ∈ seen, ∃ x ∈ xs, AloneRun a x y) :
    ∀ y ∈ Alone.explore a fuel frontier seen, ∃ x ∈ xs, AloneRun a x y := by
  induction fuel generalizing frontier seen with
  | zero => exact hs
  | succ fuel ih =>
    have next : ∀ y ∈ frontier.flatMap (Alone.nexts a), ∃ x ∈ xs, AloneRun a x y := by
      intro y hy
      obtain ⟨u, hu, hy⟩ := List.mem_flatMap.mp hy
      obtain ⟨x, hx, hr⟩ := hf u hu
      refine ⟨x, hx, hr.trans ?_⟩
      rcases List.mem_cons.mp hy with rfl | hy
      · exact .turn (.here _)
      · split at hy
        · simp at hy
        · rw [List.mem_singleton.mp hy]
          exact .sync (Nat.pos_of_ne_zero (by assumption)) (.here _)
    have fold : ∀ ys new : List Alone, (∀ y ∈ ys, ∃ x ∈ xs, AloneRun a x y) →
        (∀ y ∈ new, ∃ x ∈ xs, AloneRun a x y) →
        ∀ y ∈ ys.foldl (fun new y => if y ∈ seen ∨ y ∈ new then new else y :: new) new,
          ∃ x ∈ xs, AloneRun a x y := by
      intro ys
      induction ys with
      | nil => exact fun _ _ h => h
      | cons y ys ih =>
        intro new hy hn
        refine ih _ (fun z hz => hy z (List.mem_cons_of_mem _ hz)) ?_
        dsimp only
        split
        · exact hn
        · exact fun z hz => (List.mem_cons.mp hz).elim (fun e => e ▸ hy y List.mem_cons_self) (hn z)
    have new := fold _ [] next (by simp)
    unfold Alone.explore
    split
    · exact hs
    · rename_i he
      rw [he] at new
      exact ih new fun z hz => (List.mem_append.mp hz).elim (new z) (hs z)

/-- R185: where the search came to an end, every script that is flagged hangs. -/
theorem isrHang_of_isrHangs {b : Build} (h : isrHangs b a = true)
    (hc : Alone.closed a (Alone.explore a (Alone.fuel b a) (Alone.starts b a) (Alone.starts b a)) = true) :
    IsrHang b a := by
  unfold isrHangs at h
  simp only [hc, Bool.not_true, Bool.false_or, List.any_eq_true, Bool.and_eq_true, beq_iff_eq,
    Bool.not_eq_true'] at h
  obtain ⟨u, hu, h0, he⟩ := h
  have start : ∀ y ∈ Alone.starts b a, ∃ x ∈ Alone.starts b a, AloneRun a x y := fun y hy => ⟨y, hy, .here y⟩
  obtain ⟨x, hx, hr⟩ := explore_run start start u hu
  refine ⟨x, hx, u, hr, fun z hz => ?_⟩
  obtain ⟨k, rfl⟩ := run_iterate hz h0
  exact never_of_not_ends hc hu he k

end Sys2Proof.Machine
end

