-- ==== Sys2Proof/Laws/Memory.lean ====
section
/-! SUPPORT. The slot store: a read after a write, and the canonical form that every operation on it keeps. -/

namespace Sys2Proof.Machine.Memory

@[simp] theorem read_write_same (m : Memory) (i : Nat) (v : Elem) : read (write m i v) i = some v := by
  induction m with
  | nil => simp [write, read]
  | cons c m ih =>
    obtain ⟨j, w⟩ := c
    unfold write
    split
    · simp [read]
    · split
      · simp [read]
      · simp [read, *]

theorem read_write_of_ne (m : Memory) {i j : Nat} (v : Elem) (h : j ≠ i) : read (write m i v) j = read m j := by
  induction m with
  | nil => simp [write, read, h]
  | cons c m ih =>
    obtain ⟨k, w⟩ := c
    unfold write
    split
    · simp [read, h]
    · split
      · rename_i hk; subst hk; simp [read, h]
      · simp [read, ih]

/-- Every entry of a written store is the written one or an entry of before. -/
theorem mem_write {m : Memory} {i : Nat} {v : Elem} {c : Nat × Elem} (h : c ∈ write m i v) :
    c = (i, v) ∨ c ∈ m := by
  induction m with
  | nil => simpa [write] using h
  | cons d m ih =>
    obtain ⟨j, w⟩ := d
    unfold write at h
    split at h
    · simpa using h
    · split at h
      · simp only [List.mem_cons] at h ⊢; tauto
      · simp only [List.mem_cons] at h ⊢
        rcases h with h | h
        · tauto
        · rcases ih h with h | h <;> tauto

theorem rising_cons {i : Nat} {w : Elem} {m : Memory} :
    rising ((i, w) :: m) = true ↔ (∀ c ∈ m, i < c.1) ∧ rising m = true := by
  simp [rising]

theorem rising_write {m : Memory} (i : Nat) (v : Elem) (h : rising m = true) : rising (write m i v) = true := by
  induction m with
  | nil => simp [write, rising]
  | cons c m ih =>
    obtain ⟨j, w⟩ := c
    obtain ⟨hj, hm⟩ := rising_cons.mp h
    unfold write
    split
    · rename_i hij
      refine rising_cons.mpr ⟨?_, h⟩
      intro c hc
      rcases List.mem_cons.mp hc with rfl | hc
      · exact hij
      · exact Nat.lt_trans hij (hj c hc)
    · split
      · rename_i hij; subst hij; exact rising_cons.mpr ⟨hj, hm⟩
      · refine rising_cons.mpr ⟨?_, ih hm⟩
        intro c hc
        rcases mem_write hc with rfl | hc
        · omega
        · exact hj c hc

theorem wf_iff {C W : Nat} {m : Memory} :
    wf C W m = true ↔ rising m = true ∧ ∀ c ∈ m, c.1 < C ∧ c.2 < 2 ^ W := by
  simp [wf]

@[simp] theorem wf_nil (C W : Nat) : wf C W [] = true := rfl

/-- `MemWrite` at a slot of the store, of a `W`-bit element, keeps the canonical form (R50). -/
theorem wf_write {C W : Nat} {m : Memory} {i : Nat} {v : Elem} (h : wf C W m = true) (hi : i < C) (hv : v < 2 ^ W) :
    wf C W (write m i v) = true := by
  obtain ⟨hr, hb⟩ := wf_iff.mp h
  refine wf_iff.mpr ⟨rising_write i v hr, ?_⟩
  intro c hc
  rcases mem_write hc with rfl | hc
  · exact ⟨hi, hv⟩
  · exact hb c hc

/-- An element that a canonical store returns is of `W` bits, from a slot of the store. -/
theorem read_bound {C W : Nat} {m : Memory} {i : Nat} {v : Elem} (h : wf C W m = true) (hr : read m i = some v) :
    i < C ∧ v < 2 ^ W := by
  have hmem : (i, v) ∈ m := by
    clear h
    induction m with
    | nil => simp [read] at hr
    | cons c m ih =>
      obtain ⟨j, w⟩ := c
      unfold read at hr
      split at hr
      · rename_i hij; subst hij; simp_all
      · exact List.mem_cons_of_mem _ (ih hr)
  exact (wf_iff.mp h).2 _ hmem

end Sys2Proof.Machine.Memory
end

