-- ==== Sys2Proof/Laws/PerInstr.lean ====
section
/-! SUPPORT. The family EncodeFits: the request word of each operation a build's ports can carry fits its port (R80,
R88). -/

namespace Sys2Proof.Laws.EncodeFits

/-- The request word fits the fixed width of the operation's port. -/
def Statement (i : Instr) : Prop :=
  ∀ b : Build, i.wellFormed b = true → encode i < 2 ^ b.requestWidth i.port

/-- A field of `n` bits above two bits is a word of `n + 2` bits. -/
theorem concat_lt {v n k : Nat} (hv : v < 2 ^ n) (hk : k < 4) : concatBits v 2 k < 2 ^ (n + 2) := by
  have : (2 : Nat) ^ (n + 2) = 2 ^ n * 4 := by rw [Nat.pow_add]
  simp only [concatBits]
  omega

/-- The two low bits of an ingest request. -/
theorem ingest_low_lt (h : Bool) {k : Nat} (hk : k < 2) : concatBits (bitOf h) 1 k < 4 := by
  cases h <;> simp [concatBits, bitOf] <;> omega

theorem nopP (v : Elem) : Statement (.nopP v) := by
  intro b h
  have hv : v < 2 ^ b.width := by simp [Instr.wellFormed, Instr.fits] at h; exact h.2
  exact concat_lt hv (by decide)

theorem push (v : Elem) : Statement (.push v) := by
  intro b h
  have hv : v < 2 ^ b.width := by simp [Instr.wellFormed, Instr.fits] at h; exact h.2
  exact concat_lt hv (by decide)

theorem pendingP (v : Elem) : Statement (.pendingP v) := by
  intro b h
  have hv : v < 2 ^ b.width := by simp [Instr.wellFormed, Instr.fits] at h; exact h.2
  exact concat_lt hv (by decide)

theorem illegalP (v : Elem) : Statement (.illegalP v) := by
  intro b h
  have hv : v < 2 ^ b.width := by simp [Instr.wellFormed, Instr.fits] at h; exact h.2
  exact concat_lt hv (by decide)

theorem nopC : Statement .nopC := fun _ _ => by simp [encode, Build.requestWidth, Instr.port]

theorem pop : Statement .pop := fun _ _ => by simp [encode, Build.requestWidth, Instr.port]

theorem peek : Statement .peek := fun _ _ => by simp [encode, Build.requestWidth, Instr.port]

theorem pendingC : Statement .pendingC := fun _ _ => by simp [encode, Build.requestWidth, Instr.port]

theorem nopI (m : Bool) (f : Nat) : Statement (.nopI m f) := by
  intro b h
  have hf : f < 2 ^ b.frameWidth := by simp [Instr.wellFormed, Instr.fits] at h; exact h.2
  exact concat_lt hf (ingest_low_lt m (by decide))

theorem ingest (m : Bool) (f : Nat) : Statement (.ingest m f) := by
  intro b h
  have hf : f < 2 ^ b.frameWidth := by simp [Instr.wellFormed, Instr.fits] at h; exact h.2
  exact concat_lt hf (ingest_low_lt m (by decide))

end Sys2Proof.Laws.EncodeFits
end

