-- ==== Sys2Proof/Laws/Views.lean ====
section
/-! SUPPORT. What storing and taking do to the slots and to the two views (R65, R66, R100, R120): in SYNC mode the
other side's view follows at once, in ASYNC mode it stays. -/

namespace Sys2Proof.Machine

variable {s : State}

@[simp] theorem store_poppedView (v : Elem) : (s.store v).poppedView = s.poppedView := by
  cases h : s.build.clocking <;> simp [State.poppedView, State.poppedSeenP, h]

@[simp] theorem take_pushedView : s.take.pushedView = s.pushedView := by
  cases h : s.build.clocking <;> simp [State.pushedView, State.pushedSeenC, h]

theorem store_pushedView_sync (v : Elem) (h : s.build.clocking = .sync) :
    (s.store v).pushedView = inc s.cap s.pushed := by
  simp [State.pushedView, h]

theorem store_pushedView_async (v : Elem) (h : s.build.clocking = .async) :
    (s.store v).pushedView = s.pushedView := by
  simp [State.pushedView, State.pushedSeenC, h]

theorem take_poppedView_sync (h : s.build.clocking = .sync) : s.take.poppedView = inc s.cap s.popped := by
  simp [State.poppedView, h]

theorem take_poppedView_async (h : s.build.clocking = .async) : s.take.poppedView = s.poppedView := by
  simp [State.poppedView, State.poppedSeenP, h]

@[simp] theorem store_slot_same (v : Elem) : (s.store v).slot (idx s.cap s.pushed) = some v := by
  simp [State.slot]

theorem store_slot_ne (v : Elem) {j : Nat} (h : j ≠ idx s.cap s.pushed) : (s.store v).slot j = s.slot j := by
  simp [State.slot, Memory.read_write_of_ne _ _ h]

@[simp] theorem take_slot (j : Nat) : s.take.slot j = s.slot j := by simp [State.slot]

theorem setPushed_async (v : Nat) (h : s.build.clocking = .async) :
    s.setPushed v = { s with pushed := v, pushedGray := gray v, pushedGrayOld := s.pushedGray } := by
  simp [State.setPushed, h]

theorem setPopped_async (v : Nat) (h : s.build.clocking = .async) :
    s.setPopped v = { s with popped := v, poppedGray := gray v, poppedGrayOld := s.poppedGray } := by
  simp [State.setPopped, h]

theorem setPushed_sync (v : Nat) (h : s.build.clocking = .sync) : s.setPushed v = { s with pushed := v } := by
  simp [State.setPushed, h]

theorem setPopped_sync (v : Nat) (h : s.build.clocking = .sync) : s.setPopped v = { s with popped := v } := by
  simp [State.setPopped, h]

end Sys2Proof.Machine
end

