-- ==== Sys2Proof/Laws/Ring.lean ====
section
/-! SUPPORT. The counters, views and contents of a ring that meets its invariant out of reset, and what storing and
taking do to its occupancy and contents (R37, R38). -/

namespace Sys2Proof.Machine

variable {s : State}

/-- The checks of a legal build, as a conjunction (R6). -/
theorem legal_facts {b : Build} (h : b.legal = true) :
    1 ≤ b.capacity ∧ 2 ≤ b.nSync ∧ (b.clocking = .async → 2 ^ b.counterWidth = 2 * b.capacity)
      ∧ (b.ingestPresent = true → 33 ≤ b.width) := by
  unfold Build.legal Build.capacityFitsClocking at h
  cases hc : b.clocking <;> cases hi : b.ingestPresent <;> simp_all

/-- One half of the crossing at its reset values. -/
theorem chainInv_reset (b : Build) : ChainInv b 0 0 0 (List.replicate b.nSync 0) := by
  refine ⟨rfl, by simp, ?_, ?_, by simp⟩
  · intro g hg
    have : g = 0 := by
      rcases List.mem_cons.mp hg with h | h
      · exact h
      · exact List.eq_of_mem_replicate h
    subst this; positivity
  · unfold lags
    rw [List.pairwise_map, ← List.replicate_succ, List.pairwise_replicate]
    right; rfl

/-- Counters and crossing registers at their reset values meet their invariant (R36). -/
theorem countersInv_of_reset (h1 : s.pushed = 0) (h2 : s.pushedGray = 0) (h3 : s.pushedGrayOld = 0)
    (h4 : s.rsync = List.replicate s.build.nSync 0) (hc : ConsumerSideReset s) : CountersInv s := by
  obtain ⟨b1, b2, b3, b4⟩ := hc
  have hz : ∀ n, (List.replicate n 0).getLastD 0 = 0 := by intro n; cases n <;> simp [List.replicate_succ']
  have v1 : s.poppedView = 0 := by
    unfold State.poppedView State.poppedSeenP; rw [h4, hz, bin_zero, b1]; cases s.build.clocking <;> rfl
  have v2 : s.pushedView = 0 := by
    unfold State.pushedView State.pushedSeenC; rw [b4, hz, bin_zero, h1]; cases s.build.clocking <;> rfl
  have ho : s.occupancy = 0 := by unfold State.occupancy; rw [h1, b1]; simp
  have hp : s.pCount = 0 := by unfold State.pCount; rw [h1, v1]; simp
  have hq : s.cCount = 0 := by unfold State.cCount; rw [v2, b1]; simp
  refine ⟨by omega, by omega, by omega, by omega, fun _ => ?_⟩
  rw [h1, h2, h3, h4, b1, b2, b3, b4]
  exact ⟨chainInv_reset _, chainInv_reset _⟩

/-- The reset values of both domains meet what holds out of reset (R36). -/
theorem runningInv_of_reset (hp : ProducerSideReset s) (hc : ConsumerSideReset s) : RunningInv s := by
  refine ⟨countersInv_of_reset hp.2.1 hp.2.2.1 hp.2.2.2.1 hp.2.2.2.2.1 hc, ?_⟩
  unfold State.occupancy
  rw [hp.2.1, hc.1]
  simp

/-- What the last stage of a chain decodes to is a counter value. -/
theorem seen_lt {b : Build} {remote reg old : Nat} {chain : List Nat} (hl : b.legal = true)
    (ha : b.clocking = .async) (h : ChainInv b remote reg old chain) :
    bin b.counterWidth (chain.getLastD 0) < 2 * b.capacity := by
  obtain ⟨_, hn, hw, _⟩ := h
  have hf := legal_facts hl
  rw [← hf.2.2.1 ha]
  apply bin_lt
  cases chain with
  | nil => simp at hn; omega
  | cons c cs => exact hw _ (List.mem_cons_of_mem _ (by rw [List.getLastD_cons]; exact List.getLastD_mem_cons ..))

/-- Between the two domains' edges of an ASYNC reset in a block that was at its reset values already. -/
theorem midReset_of_reset (hl : s.build.legal = true) (hk : s.build.clocking = .async)
    (hs : s.rstP = .asserted true ∧ s.rstC = .asserted false ∨ s.rstP = .asserted false ∧ s.rstC = .asserted true)
    (hp : ProducerSideReset s) (hc : ConsumerSideReset s) : midReset s = true := by
  have h0 : 0 < 2 * s.cap := by have := (legal_facts hl).1; unfold State.cap; omega
  rcases hs with ⟨h1, h2⟩ | ⟨h1, h2⟩ <;> simp only [midReset, hk, h1, h2]
  · exact decide_eq_true ⟨hp, hc.1 ▸ h0, 0, h0, countersInv_of_reset rfl rfl rfl
      (by simp [beforeProducerReset, hc.2.2.1]) hc⟩
  · exact decide_eq_true ⟨hc, hp.2.1 ▸ h0, by rw [hp.1]; rfl, 0, h0, runningInv_of_reset hp
      ⟨rfl, rfl, rfl, by simp [beforeConsumerReset, hp.2.2.2.1]⟩⟩

/-- A block with its lines released has had no reset edge. -/
theorem not_afterFirstResetEdge (h : Running s) : ¬ AfterFirstResetEdge s := by
  rintro ⟨u, d, -, hu, rfl⟩
  obtain ⟨h1, h2⟩ := h
  cases hk : u.build.clocking <;> cases d <;>
    simp [resetEdge, assertReset, hk, resetProducerSide, resetConsumerSide, ResetLine.assert, hu.1, hu.2] at h1 h2

/-- A slot store with every slot written. -/
def fullSlots (C : Nat) : Memory := (List.range C).map fun i => (i, 0)

theorem fullSlots_read {C i : Nat} (h : i < C) : (Memory.read (fullSlots C) i).isSome = true := by
  unfold fullSlots
  have : ∀ l : List Nat, i ∈ l → (Memory.read (l.map fun i => (i, 0)) i).isSome = true := by
    intro l hl
    induction l with
    | nil => simp at hl
    | cons j l ih =>
      simp only [List.map_cons, Memory.read]
      split
      · rfl
      · exact ih (by simp_all)
  exact this _ (List.mem_range.mpr h)

theorem fullSlots_wf (C W : Nat) : Memory.wf C W (fullSlots C) = true := by
  unfold fullSlots Memory.wf
  have : ∀ l : List Nat, l.Pairwise (· < ·) → Memory.rising (l.map fun i => (i, 0)) = true := by
    intro l hl
    induction l with
    | nil => rfl
    | cons j l ih =>
      rw [List.pairwise_cons] at hl
      simp only [List.map_cons, Memory.rising, Bool.and_eq_true, List.all_eq_true, decide_eq_true_eq]
      refine ⟨?_, ih hl.2⟩
      intro c hc
      obtain ⟨k, hk, rfl⟩ := List.mem_map.mp hc
      exact hl.1 k hk
  rw [Bool.and_eq_true, List.all_eq_true]
  refine ⟨this _ List.pairwise_lt_range, ?_⟩
  intro c hc
  obtain ⟨k, hk, rfl⟩ := List.mem_map.mp hc
  simp [List.mem_range.mp hk]

/-- Out of reset, the rest of the invariant leaves nothing to the reset lines. -/
theorem blockInv_of_running (hl : s.build.legal = true) (hm : Memory.wf s.cap s.build.width s.slots = true)
    (h1 : s.pushed < 2 * s.cap) (h2 : s.popped < 2 * s.cap) (hr : Running s) (h : RunningInv s) : BlockInv s :=
  ⟨hl, hm, h1, h2, fun _ => h, by simp [hr.1], by simp [hr.2], by simp [hr.2], by simp [hr.1], by simp [hr.1],
    by simp [hr.1], by simp [hr.1], fun _ => by rw [hr.1, hr.2]⟩

/-- A state between the two domains' edges of an ASYNC reset is one that the first edge leaves of a block that met its
invariant: the exception to R39 is no wider. -/
theorem afterFirstResetEdge_of_midReset (hl : s.build.legal = true) (h : midReset s = true) :
    AfterFirstResetEdge s := by
  unfold midReset at h
  split at h
  · rename_i hk hP hC
    obtain ⟨⟨a1, a2, a3, a4, a5, a6, a7⟩, hq, u, hu, hc⟩ := of_decide_eq_true h
    refine ⟨{ beforeProducerReset u s with slots := fullSlots s.cap, rstP := .released, rstC := .released }, .producer,
      blockInv_of_running hl (fullSlots_wf _ _) hu hq ⟨rfl, rfl⟩ ⟨hc, fun k _ => fullSlots_read ?_⟩, ⟨rfl, rfl⟩, ?_⟩
    · exact idx_lt (advance_lt hq k)
    · clear hc
      cases s
      simp_all [resetEdge, assertReset, resetProducerSide, ResetLine.assert, beforeProducerReset]
  · rename_i hk hP hC
    obtain ⟨⟨b1, b2, b3, b4⟩, hp, hm, q, hq, hc⟩ := of_decide_eq_true h
    refine ⟨{ beforeConsumerReset q s with rstP := .released, rstC := .released }, .consumer,
      blockInv_of_running hl hm hp hq ⟨rfl, rfl⟩ hc, ⟨rfl, rfl⟩, ?_⟩
    clear hc
    cases s
    simp_all [resetEdge, assertReset, resetConsumerSide, ResetLine.assert, beforeConsumerReset]
  · simp at h

/-- A state in the invariant is no fault, in reset as out of it (R26, R37, R67). -/
theorem stateFault_none_of_inv (h : BlockInv s) : stateFault s = none := by
  obtain ⟨-, -, h1, h2, hr, z1, z2, z3, z4, z5, z6, z7, -⟩ := h
  have main : midReset s = true ∨ CountersInv s := by
    cases hP : s.rstP with
    | released =>
      cases hC : s.rstC with
      | released => exact .inr (hr ⟨hP, hC⟩).1
      | asserted c => have h := z3 hP (by simp [hC]); exact .inr (runningInv_of_reset h.2 (z2 h.1)).1
    | asserted p =>
      cases hC : s.rstC with
      | released => have h := z4 hC (by simp [hP]); exact .inr (runningInv_of_reset (z1 h.1) h.2).1
      | asserted c =>
        cases p <;> cases c
        · exact .inr (z5 hP hC).1
        · exact .inl (z7 hP hC)
        · exact .inl (z6 hP hC)
        · exact .inr (runningInv_of_reset (z1 hP) (z2 hC)).1
  rcases main with h | h
  · simp [stateFault, h]
  · simp [stateFault, h.ringFault_none h1 h2]

/-- Out of reset each view is a counter value, the producer's count is the occupancy and its view's lag, and the
occupancy is the consumer's count and its view's lag (R67). -/
theorem view_facts (h : BlockInv s) (hr : Running s) :
    s.poppedView < 2 * s.cap ∧ s.pushedView < 2 * s.cap
      ∧ s.pCount = s.occupancy + occ s.cap s.popped s.poppedView
      ∧ s.occupancy = s.cCount + occ s.cap s.pushed s.pushedView := by
  obtain ⟨hl, _, hp, hq, hi, _⟩ := h
  obtain ⟨⟨_, h3, _, h5, h6⟩, _⟩ := hi hr
  have hv : s.poppedView < 2 * s.cap := by
    unfold State.poppedView; split
    · exact hq
    · rename_i ha; exact seen_lt hl ha (h6 ha).1
  have hw : s.pushedView < 2 * s.cap := by
    unfold State.pushedView; split
    · exact hp
    · rename_i ha; exact seen_lt hl ha (h6 ha).2
  exact ⟨hv, hw, occ_split hq hv h3, occ_split_left hp hq hw h5⟩

/-- In SYNC mode both counts are the occupancy (R103, R124). -/
theorem sync_counts (hk : s.build.clocking = .sync) : s.pCount = s.occupancy ∧ s.cCount = s.occupancy := by
  simp [State.pCount, State.cCount, State.poppedView, State.pushedView, hk, State.occupancy]

/-- A store that the producer's view admits adds one to the occupancy. -/
theorem store_occupancy (h : BlockInv s) (hr : Running s) (hc : s.pCount ≠ s.cap) (v : Elem) :
    (s.store v).occupancy = s.occupancy + 1 := by
  have hv := view_facts h hr
  have hb := h.2.2.2.2.1 hr
  unfold State.occupancy at *
  simp only [store_cap, store_pushed, store_popped]
  exact occ_inc_left h.2.2.1 h.2.2.2.1 (by omega)

/-- A take that the consumer's view admits takes one from the occupancy. -/
theorem take_occupancy (h : BlockInv s) (hr : Running s) (hc : s.cCount ≠ 0) : s.take.occupancy + 1 = s.occupancy := by
  have hv := view_facts h hr
  unfold State.occupancy at *
  simp only [take_cap, take_pushed, take_popped]
  exact occ_inc_right h.2.2.1 h.2.2.2.1 (by omega)

theorem contents_length : (contents s).length = s.occupancy := by simp [contents]

/-- A store appends to the contents. -/
theorem contents_store (h : BlockInv s) (hr : Running s) (hc : s.pCount ≠ s.cap) (v : Elem) :
    contents (s.store v) = contents s ++ [some v] := by
  have hv := view_facts h hr
  have hb := h.2.2.2.2.1 hr
  unfold contents
  rw [store_occupancy h hr hc, List.range_succ, List.map_append]
  congr 1
  · apply List.map_congr_left
    intro k hk
    have hk := List.mem_range.mp hk
    simp only [store_cap, store_popped]
    apply store_slot_ne
    exact idx_advance_ne h.2.2.1 h.2.2.2.1 (by unfold State.occupancy at *; omega) hk
  · have : advance s.cap s.popped s.occupancy = s.pushed := advance_occ h.2.2.1 h.2.2.2.1
    simp [this]

/-- A take removes the head of the contents, which has a value. -/
theorem contents_take (h : BlockInv s) (hr : Running s) (hc : s.cCount ≠ 0) :
    ∃ e, s.head = some e ∧ e < 2 ^ s.build.width ∧ contents s = some e :: contents s.take := by
  have ho := take_occupancy h hr hc
  have hb := (h.2.2.2.2.1 hr).2 0 (by omega)
  obtain ⟨e, he⟩ := Option.isSome_iff_exists.mp hb
  refine ⟨e, he, (Memory.read_bound h.2.1 he).2, ?_⟩
  unfold contents
  rw [← ho, List.range_succ_eq_map, List.map_cons, List.map_map]
  congr 1
  apply List.map_congr_left
  intro k _
  simp [advance_inc]

end Sys2Proof.Machine
end

