-- ==== Sys2Proof/Tests/Slice0.lean ====
section
/-! SUPPORT. Tests of single steps, with expected results from spec/95_test_vectors.md or by hand from the rules;
smoke tests of WellFormed; and witnesses: for each obligation, a state and operands that meet its hypotheses. -/

set_option synthInstance.maxSize 4000

namespace Sys2Proof.Tests

open Sys2Proof Sys2Proof.Machine

/-! ## Helpers -/

/-- The bare SYNC ring of most vectors of 95: `C = 4`, `W = 8`. -/
def b4 : Build := Build.tx 4 8 .sync 2

/-- The same in ASYNC mode. -/
def a4 : Build := Build.tx 4 8 .async 2

/-- The RX instance of 95, section 2.4: `C = 32`, `W = 40`. -/
def r32 : Build := Build.rx 40 .sync 2

/-- A small build with the front-end. -/
def i2 : Build := { capacity := 2, width := 40, clocking := .sync, nSync := 2, ingestPresent := true }

/-- A SYNC ring with the given counters and slots. -/
def ring (b : Build) (pushed popped : Nat) (slots : Memory) : State :=
  { State.resetOf b with pushed := pushed, popped := popped, slots := slots }

/-- An ASYNC ring with the given counters and views, every stage showing its view. -/
def crossing (b : Build) (pushed popped seenP seenC : Nat) (slots : Memory) : State :=
  { ring b pushed popped slots with
    pushedGray := gray pushed
    pushedGrayOld := gray pushed
    poppedGray := gray popped
    poppedGrayOld := gray popped
    rsync := List.replicate b.nSync (gray seenP)
    wsync := List.replicate b.nSync (gray seenC) }

/-- The next state, where there is one. -/
def nextOf : Result → Option State
  | .next t => some t
  | .fault _ => none
  | .refused _ => none

/-- The fault, where there is one. -/
def faultOf : Result → Option Fault
  | .next _ => none
  | .fault f => some f
  | .refused _ => none

/-- The refusal, where there is one. -/
def refusalOf : Result → Option Refusal
  | .next _ => none
  | .fault _ => none
  | .refused r => some r

/-- One step with this input. -/
def stepWith (e : Input) (s : State) : Result := step { s with inputs := [e] }

/-- What a test of a producer request looks at. -/
def producerView (r : Result) : Option (Nat × Nat × Option Status) :=
  (nextOf r).map fun t => (t.pushed, t.pCount, t.resp.producer.map (·.status))

/-- What a test of a consumer request looks at. -/
def consumerView (r : Result) : Option (Nat × Nat × Option Status × Option Elem) :=
  (nextOf r).map fun t => (t.popped, t.cCount, t.resp.consumer.map (·.status), t.resp.consumer.bind (·.data))

/-- What a test of an ingest request looks at. -/
def ingestView (r : Result) : Option (Nat × Nat × Nat × Option Status) :=
  (nextOf r).map fun t => (t.pushed, t.seq.toNat, t.dropCount.toNat, t.resp.ingest.map (·.status))

/-- A full ring, one with two elements, and an empty one. -/
def full4 : State := ring b4 4 0 [(0, 10), (1, 11), (2, 12), (3, 13)]
def mid4 : State := ring b4 2 0 [(0, 10), (1, 11)]
def empty4 : State := ring b4 2 2 [(0, 10), (1, 11)]

/-- 95, section 2.6, the state before A1, with the four slots that are live or were. -/
def asyncA1 : State := crossing a4 4 1 0 4 [(0, 0x10), (1, 0x11), (2, 0x12), (3, 0x13)]

/-- The small ring with the front-end: full, and with one element. -/
def full2 : State := { ring i2 2 0 [(0, 0x0100000001), (1, 0x0100000002)] with seq := 2 }
def mid2 : State := { ring i2 1 0 [(0, 0x0100000001)] with seq := 1 }

/-! ## WellFormed: an ill-formed term for each check (R6, R7, R80, R86, R87) -/

theorem test_build_capacity_zero : (Build.tx 0 8 .sync 2).legal = false := by decide
theorem test_build_width_zero : (Build.tx 4 0 .sync 2).legal = false := by decide
theorem test_build_nsync_one : (Build.tx 4 8 .async 1).legal = false := by decide
theorem test_build_async_three : (Build.tx 3 8 .async 2).legal = false := by decide
theorem test_build_ingest_width : (Build.rx 32 .sync 2).legal = false := by decide
theorem test_build_sync_three : (Build.tx 3 8 .sync 2).legal = true := by decide
theorem test_build_ingest_least_width : (Build.rx 33 .async 2).legal = true := by decide

theorem test_wf_nop_p : (Instr.nopP 256).wellFormed b4 = false := by decide
theorem test_wf_push : (Instr.push 256).wellFormed b4 = false := by decide
theorem test_wf_pending_p : (Instr.pendingP 256).wellFormed b4 = false := by decide
theorem test_wf_illegal_p : (Instr.illegalP 256).wellFormed b4 = false := by decide
theorem test_wf_nop_i : (Instr.nopI true 256).wellFormed r32 = false := by decide
theorem test_wf_ingest : (Instr.ingest true 256).wellFormed r32 = false := by decide
theorem test_wf_push_no_port : (Instr.push 0).wellFormed r32 = false := by decide
theorem test_wf_ingest_no_port : (Instr.ingest true 0).wellFormed b4 = false := by decide

/-! ## Decoding: words written out from R80 to R83 -/

/-- `PREQ` is ten bits: `p_data = 0x5A`, then `p_op`. -/
theorem test_decode_nop_p : decode b4 .producer 0b0101101000 = .ok (.nopP 0x5A) := by decide
theorem test_decode_push : decode b4 .producer 0b0101101001 = .ok (.push 0x5A) := by decide
theorem test_decode_pending_p : decode b4 .producer 0b0101101010 = .ok (.pendingP 0x5A) := by decide
theorem test_decode_illegal_p : decode b4 .producer 0b0101101011 = .ok (.illegalP 0x5A) := by decide
theorem test_decode_nop_c : decode b4 .consumer 0b00 = .ok .nopC := by decide
theorem test_decode_pop : decode b4 .consumer 0b01 = .ok .pop := by decide
theorem test_decode_peek : decode b4 .consumer 0b10 = .ok .peek := by decide
theorem test_decode_pending_c : decode b4 .consumer 0b11 = .ok .pendingC := by decide
/-- `IREQ` is ten bits in a build with `W_FRAME = 8`: `i_frame = 0xAB`, `i_has_pending`, `i_op`. -/
theorem test_decode_nop_i : decode r32 .ingest 0b1010101110 = .ok (.nopI true 0xAB) := by decide
theorem test_decode_ingest : decode r32 .ingest 0b1010101111 = .ok (.ingest true 0xAB) := by decide
theorem test_decode_ingest_none : decode r32 .ingest 0b1010101101 = .ok (.ingest false 0xAB) := by decide
theorem test_decode_absent : decode r32 .producer 0x169 = .rejected .portAbsent := by decide
theorem test_decode_too_wide : decode b4 .consumer 0b100 = .rejected .requestTooWide := by decide

/-! ## Helper vectors (95, 2.1 and 2.6) -/

theorem test_helpers_c1 : (occ 1 0 1, idx 1 0, inc 1 0) = (1, 0, 1) ∧ (occ 1 1 1, idx 1 1, inc 1 1) = (0, 0, 0) := by
  decide
theorem test_helpers_c3 : (occ 3 5 2, idx 3 5, inc 3 5) = (3, 2, 0) ∧ (occ 3 1 4, idx 3 1, inc 3 1) = (3, 1, 2)
    ∧ (occ 3 3 3, idx 3 3, inc 3 3) = (0, 0, 4) := by decide
theorem test_helpers_c4 : (occ 4 3 7, idx 4 3, inc 4 3) = (4, 3, 4) ∧ (occ 4 7 4, idx 4 7, inc 4 7) = (3, 3, 0) := by
  decide
theorem test_helpers_c32 : (occ 32 63 31, idx 32 63, inc 32 63) = (32, 31, 0) ∧ occ 32 10 50 = 24 := by decide
theorem test_gray_table : (List.range 8).map gray = [0b000, 0b001, 0b011, 0b010, 0b110, 0b111, 0b101, 0b100] := by
  decide
theorem test_gray_back : ((List.range 8).map gray).map (bin 3) = List.range 8 := by decide
/-- R6: `CW` for `C = 1, 3, 4, 32`. -/
theorem test_counter_width : [1, 3, 4, 32].map (fun c => (Build.tx c 8 .sync 2).counterWidth) = [1, 3, 3, 6] := by
  decide

/-! ## Producer port (95, 2.2) -/

/-- V-P1. -/
theorem test_nop_p : producerView (stepWith (.request .producer 0x000) (ring b4 0 0 [])) = some (0, 0, some .ok) := by
  decide
/-- V-P3: the tail is slot 3, and `pushed` wraps. -/
theorem test_push_wraps : producerView (stepWith (.request .producer 0x169) (ring b4 7 4 [])) = some (0, 4, some .ok)
    ∧ (nextOf (stepWith (.request .producer 0x169) (ring b4 7 4 []))).map (·.slots) = some [(3, 0x5A)] := by decide
/-- V-P5: full with wrapped counters; nothing is stored. -/
theorem test_push_full : producerView (stepWith (.request .producer 0x001) (ring b4 3 7 [])) = some (3, 4, some .full)
    ∧ (nextOf (stepWith (.request .producer 0x001) (ring b4 3 7 []))).map (·.slots) = some [] := by decide
/-- V-P9: the result is `p_count`. -/
theorem test_pending_p : (nextOf (stepWith (.request .producer 0x002) (ring (Build.tx 3 8 .sync 2) 1 4 []))).map
    (fun t => t.resp.producer) = some (some { status := .ok, count := 3, full := true }) := by decide
/-- V-P10: ILLEGAL comes before the full check. -/
theorem test_illegal_p_full : producerView (stepWith (.request .producer 0x003) (ring b4 4 0 []))
    = some (4, 4, some .illegal) := by decide
/-- V-P11. -/
theorem test_illegal_p_data : producerView (stepWith (.request .producer 0x3FF) (ring b4 2 0 []))
    = some (2, 2, some .illegal) := by decide

/-! ## Consumer port (95, 2.3) -/

/-- V-C8. -/
theorem test_nop_c : consumerView (stepWith (.request .consumer 0) (ring b4 2 2 [])) = some (2, 0, some .ok, none) := by
  decide
/-- V-C1. -/
theorem test_pop_empty : consumerView (stepWith (.request .consumer 1) (State.resetOf b4))
    = some (0, 0, some .emptyOrNoMessage, none) := by decide
/-- V-C5: `popped` wraps. -/
theorem test_pop_wraps : consumerView (stepWith (.request .consumer 1) (ring b4 1 7 [(0, 0x44), (3, 0x33)]))
    = some (0, 1, some .ok, some 0x33) := by decide
/-- V-C3: PEEK leaves `popped`. -/
theorem test_peek : consumerView (stepWith (.request .consumer 2)
    (ring b4 5 1 [(0, 0x0E), (1, 0x0B), (2, 0x0C), (3, 0x0D)])) = some (1, 4, some .ok, some 0x0B) := by decide
/-- V-C7. -/
theorem test_peek_empty : consumerView (stepWith (.request .consumer 2) (ring b4 3 3 []))
    = some (3, 0, some .emptyOrNoMessage, none) := by decide
/-- V-C6: the result is `c_count`. -/
theorem test_pending_c : (nextOf (stepWith (.request .consumer 3) (ring b4 0 5 []))).map (fun t => t.resp.consumer)
    = some (some { status := .ok, data := none, count := 3, empty := false }) := by decide

/-! ## Ingest port (95, 2.4) -/

/-- V-I1. -/
theorem test_nop_i : ingestView (stepWith (.request .ingest 0x000) (ring r32 0 0 [])) = some (0, 0, 0, some .ok) := by
  decide
/-- V-I5: the stamp wraps, and the element is the frame above it. -/
theorem test_ingest_stamp_wraps :
    (nextOf (stepWith (.request .ingest 0x007) { ring r32 5 0 [] with seq := 0xFFFFFFFF })).map
      (fun t => (t.seq, t.slots, t.pushed)) = some (0, [(5, 0x0100000000)], 6) := by decide
/-- V-I6: a drop is stamped and counted, and its count wraps. -/
theorem test_ingest_drop : ingestView (stepWith (.request .ingest 0x007)
    { ring r32 32 0 [] with seq := 7, dropCount := 0xFFFFFFFF }) = some (32, 8, 0, some .full) := by decide
/-- V-I7: no stamp without a message, on a full ring too. -/
theorem test_ingest_no_message : ingestView (stepWith (.request .ingest 0x001)
    { ring r32 32 0 [] with seq := 5, dropCount := 2 }) = some (32, 5, 2, some .emptyOrNoMessage) := by decide

/-! ## Both ports in one SYNC cycle (95, 2.5) -/

/-- V-S1. -/
theorem test_same_cycle_full : consumerView (stepWith (.sameCycle 0x039 1) full4) = some (1, 3, some .ok, some 0x0A)
    ∧ producerView (stepWith (.sameCycle 0x039 1) full4) = some (4, 3, some .full) := by decide
/-- V-S2. -/
theorem test_same_cycle_empty :
    consumerView (stepWith (.sameCycle 0x039 1) empty4) = some (2, 1, some .emptyOrNoMessage, none)
    ∧ (nextOf (stepWith (.sameCycle 0x039 1) empty4)).map (·.slot 2) = some (some 0x0E) := by decide
/-- V-S3. -/
theorem test_same_cycle_mid : consumerView (stepWith (.sameCycle 0x039 1) mid4) = some (1, 2, some .ok, some 0x0A)
    ∧ producerView (stepWith (.sameCycle 0x039 1) mid4) = some (3, 2, some .ok) := by decide

/-! ## The crossing (95, 2.6) -/

/-- A1: a spurious FULL. -/
theorem test_async_spurious_full : producerView (stepWith (.request .producer 0x155) asyncA1)
    = some (4, 4, some .full) := by decide
/-- A2. -/
theorem test_async_sync_step : (nextOf (stepWith (.sync .producer 1) asyncA1)).map (·.poppedSeenP) = some 1 := by decide
/-- A5: a spurious EMPTY. -/
theorem test_async_spurious_empty : consumerView (stepWith (.request .consumer 1) (crossing a4 5 4 1 4 [(0, 0x55)]))
    = some (4, 0, some .emptyOrNoMessage, none) := by decide
/-- A7. -/
theorem test_async_pop : consumerView (stepWith (.request .consumer 1) (crossing a4 5 4 1 5 [(0, 0x55)]))
    = some (5, 0, some .ok, some 0x55) := by decide
/-- A8, and the illegal `k = 5` there. -/
theorem test_async_sync_four : (nextOf (stepWith (.sync .producer 4) (crossing a4 5 5 1 5 []))).map (·.poppedSeenP) = some 5
    ∧ refusalOf (stepWith (.sync .producer 5) (crossing a4 5 5 1 5 [])) = some .illegalSyncStep
    ∧ gray 5 = 0b111 := by decide
/-- R30, R64: an edge captures the register's value, or by the draw the one before its last change. -/
theorem test_edge_samples : ((nextOf (exec (.push 1) (crossing a4 0 0 0 0 []))).bind fun s =>
      (nextOf (runEdge .consumer none false s)).map (·.wsync)) = some [1, 0]
    ∧ ((nextOf (exec (.push 1) (crossing a4 0 0 0 0 []))).bind fun s =>
      (nextOf (runEdge .consumer none true s)).map (·.wsync)) = some [0, 0] := by decide

/-! ## Reset (95, 2.7; R181) -/

/-- V-R2: the state is as it was, when `rst` has had its edge. -/
theorem test_request_under_reset :
    (nextOf (exec (.push 1) { State.resetOf b4 with rstP := .asserted true, rstC := .asserted true })).map
      (fun t => (t.pushed, t.popped, t.slots)) = some (0, 0, []) := by decide
/-- V-R1, the edge. -/
theorem test_reset_edge : (nextOf (runEdge .producer none false
      { ring b4 3 1 [(0, 1)] with seq := 9, dropCount := 2, rstP := .asserted false, rstC := .asserted false })).map
      (fun t => (t.pushed, t.popped, t.slots, t.seq, t.dropCount)) = some (0, 0, [], 0, 0) := by decide
/-- R181. -/
theorem test_release_early :
    refusalOf (releaseReset .producer { crossing a4 0 0 0 0 [] with rstP := .asserted true, rstC := .asserted false })
      = some .resetReleasedEarly := by decide
theorem test_request_half_reset :
    refusalOf (exec .pop { crossing a4 0 0 0 0 [] with rstP := .asserted true }) = some .inReset := by decide

/-! ## Stops -/

/-- R39. -/
theorem test_overfull : faultOf (exec (.push 0) (ring b4 5 0 [])) = some .occupancyAboveCapacity := by decide
/-- R39, R7: no step at all, with no input as with one. -/
theorem test_overfull_no_input : faultOf (step (ring b4 5 0 [])) = some .occupancyAboveCapacity
    ∧ faultOf (stepWith .rstAssert (ring b4 5 0 [])) = some .occupancyAboveCapacity := by decide
/-- R39: an overfull state that no reset reaches is a fault under `rst` too: in SYNC mode, and in ASYNC mode where the
domain that has had its edge does not hold its reset values. -/
theorem test_overfull_under_reset :
    faultOf (step { ring b4 5 0 [] with rstP := .asserted true, rstC := .asserted false })
        = some .occupancyAboveCapacity
      ∧ faultOf (step { crossing a4 5 0 0 5 [] with rstP := .asserted true, rstC := .asserted false })
        = some .occupancyAboveCapacity := by decide
/-- R39: nor is it reached where the domain that has had no edge breaks the rules out of reset: a view of `pushed` that
`popped` has passed (R67), and a register that is not the Gray code of its counter (R30). -/
theorem test_overfull_unreached :
    faultOf (step { crossing a4 0 1 0 0 [] with rstP := .asserted true, rstC := .asserted false })
        = some .occupancyAboveCapacity
      ∧ faultOf (step { crossing a4 5 0 5 0 [] with pushedGray := 0, rstP := .asserted false, rstC := .asserted true })
        = some .occupancyAboveCapacity := by decide
theorem test_illegal_build_no_input : refusalOf (step (State.resetOf (Build.tx 0 8 .sync 2))) = some .illegalBuild
    ∧ refusalOf (step ((State.resetOf (Build.rx 32 .sync 2)).withFetchWord 8 1)) = some .illegalBuild := by decide
/-- 93 I1. -/
theorem test_unwritten_slot : faultOf (exec .pop (ring b4 1 0 [])) = some .slotUnwritten := by decide
/-- R184. -/
theorem test_two_drivers :
    refusalOf (stepWith (.agent 0) { mid4 with agents := [Agent.start .consumer [], Agent.start .consumer []] })
      = some .sharedPort := by decide
/-- R86, R140. -/
theorem test_push_on_ingest_build :
    refusalOf (stepWith (.agent 0) { mid2 with agents := [Agent.start .producer [scriptPush 1]] })
      = some .scriptNotOnPort := by decide

/-! ## Agents (R89 to R91, R185) -/

/-- A POP in a script: `st`, `dat` and `log`. -/
theorem test_agent_pop : (nextOf (stepWith (.agent 0) { mid4 with agents := [Agent.start .consumer (scriptPopAll 0)] })).map
    (fun t => t.agents.map fun a => (a.ip, a.st, a.dat, a.log)) = some [(1, .ok, some 10, [10])] := by decide
/-- `DRAIN` at its first line: `cnt` is the count. -/
theorem test_agent_drain : (nextOf (stepWith (.agent 0) { mid4 with agents := [Agent.start .consumer (scriptDrain 0)] })).map
    (fun t => t.agents.map fun a => (a.ip, a.cnt)) = some [(1, 2)] := by decide
/-- R185: a script that retries on FULL hangs, and one that issues one INGEST ends. -/
theorem test_isr_hangs : isrHangs i2 (Agent.start .ingest [scriptIngest 1, .bFull 0, .halt]) = true
    ∧ isrHangs i2 (Agent.start .ingest [scriptIngest 1, .halt]) = false := by decide +kernel
/-- R185, R65: the first INGEST sees FULL, a sync step lets the second store, and the third waits on FULL for a POP; with
no sync step the script ends. One that ends on FULL instead ends whatever the sync steps. -/
theorem test_isr_hangs_async :
    isrHangs { i2 with capacity := 1, clocking := .async } (Agent.start .ingest
        [scriptIngest 0, .bFull 3, .halt, scriptIngest 0, .bOk 6, .halt, scriptIngest 0, .bFull 6]) = true
      ∧ isrHangs { i2 with capacity := 1 } (Agent.start .ingest
        [scriptIngest 0, .bFull 3, .halt, scriptIngest 0, .bOk 6, .halt, scriptIngest 0, .bFull 6]) = false
      ∧ isrHangs { i2 with capacity := 1, clocking := .async } (Agent.start .ingest
        [scriptIngest 0, .bFull 3, .halt, scriptIngest 0, .bOk 6, .halt, scriptIngest 0]) = false := by decide +kernel

/-! ## The host's interface -/

theorem test_table_word : decodeTableWord 8 0x01 = some (.push 0) := by decide
theorem test_fetch_word : (nextOf (step (State.reset.withFetchWord 8 0x01))).map (fun t => (t.pushed, t.slots))
    = some (1, [(0, 0)]) := by decide
theorem test_idle_step : (nextOf (step State.reset)) = some State.reset := by decide

/-! ## Witnesses: the hypotheses of each obligation are met, each clause at a boundary -/

theorem wit_encodedInstrDecodesBack :
    (Instr.push 255).wellFormed b4 = true ∧ (Instr.pop).wellFormed r32 = true ∧ (Instr.ingest true 255).wellFormed r32 = true := by
  decide
theorem wit_decodedRequestEncodesBack : decode b4 .producer 0x3FD = .ok (.push 255) := by decide
theorem wit_presentPortDecodesEveryPattern :
    (b4.hasPort .producer = true ∧ 0x3FF < 2 ^ b4.requestWidth .producer) ∧ b4.hasPort .ingest = false
      ∧ (b4.hasPort .consumer = true ∧ 2 ^ b4.requestWidth .consumer ≤ 4) := by decide
theorem wit_counterHelpersAreModular : 1 ≤ 4 ∧ 0 < 2 * 4 ∧ 7 < 2 * 4 := by decide
theorem wit_slotIndexOccursExactlyTwice : 3 < 4 ∧ 7 < 2 * 4 := by decide
theorem wit_grayNeighboursDifferInOneBit : 1 ≤ 3 ∧ 7 < 2 ^ 3 := by decide
theorem wit_grayDecodingInvertsGray : 7 < 2 ^ 3 ∧ 1 ≤ 3 ∧ 1 + 1 < 3 := by decide
theorem wit_illegalBuildsAndAbsentPortsAreRefused :
    (ring (Build.tx 3 8 .async 2) 0 0 []).build.legal = false
      ∧ portsDistinct (ring (Build.tx 3 8 .async 2) 0 0 []) = true
      ∧ (mid2.build.legal = true ∧ mid2.build.ingestPresent = true ∧ (Instr.push 0).port = .producer)
      ∧ (mid4.build.legal = true ∧ mid4.build.ingestPresent = false ∧ (Instr.ingest true 0).port = .ingest) := by decide
theorem wit_stopsOutOfResetHaveTheseReasons :
    (Running mid2 ∧ mid2.build.legal = true ∧ mid2.build.hasPort (Instr.push 1).port = false)
      ∧ (Running mid4 ∧ mid4.build.legal = true ∧ mid4.build.hasPort (Instr.push 256).port = true
        ∧ (Instr.push 256).fits mid4.build = false) := by decide
theorem wit_stopsOutOfResetHaveTheseReasons_faults :
    ((ring b4 8 0 []).build.legal = true ∧ Running (ring b4 8 0 []) ∧ (Instr.pop).wellFormed b4 = true
        ∧ ringFault (ring b4 8 0 []) = some .counterOutOfRange)
      ∧ ringFault (ring b4 5 0 []) = some .occupancyAboveCapacity
      ∧ ringFault (crossing a4 1 0 2 1 []) = some .viewOutOfBounds
      ∧ (ringFault (ring b4 1 0 []) = none ∧ (ring b4 1 0 []).cCount ≠ 0 ∧ (ring b4 1 0 []).head = none) := by decide
theorem wit_stopsOutOfResetHaveTheseReasons_next :
    mid4.build.legal = true ∧ Running mid4 ∧ (Instr.pop).wellFormed mid4.build = true ∧ ringFault mid4 = none
      ∧ ¬ ((Instr.pop = .pop ∨ Instr.pop = .peek) ∧ mid4.cCount ≠ 0 ∧ mid4.head = none) := by decide
def overfull : State := ring b4 5 0 []
def overfullAsync : State := crossing a4 5 0 0 5 []
theorem wit_overfullStateFaults :
    ¬ AfterFirstResetEdge overfull ∧ overfull.build.legal = true ∧ portsDistinct overfull = true
      ∧ overfull.pushed < 2 * overfull.cap ∧ overfull.popped < 2 * overfull.cap
      ∧ overfull.cap < occ overfull.cap overfull.pushed overfull.popped
      ∧ (Instr.push 0).wellFormed overfull.build = true :=
  ⟨not_afterFirstResetEdge ⟨rfl, rfl⟩, by decide⟩
theorem wit_overfullStateFaults_async :
    ¬ AfterFirstResetEdge overfullAsync ∧ overfullAsync.build.legal = true
      ∧ overfullAsync.pushed < 2 * overfullAsync.cap ∧ overfullAsync.popped < 2 * overfullAsync.cap
      ∧ overfullAsync.cap < occ overfullAsync.cap overfullAsync.pushed overfullAsync.popped :=
  ⟨not_afterFirstResetEdge ⟨rfl, rfl⟩, by decide⟩
theorem wit_resetLeavesTheListedState : b4.legal = true ∧ a4.legal = true ∧ r32.legal = true := by decide
theorem wit_resetMeetsTheBlockInvariant : b4.legal = true ∧ BlockInv (State.resetOf b4) := by decide

/-- The reset sequence from a state with elements in it. -/
def resetting : State :=
  { asyncA1 with inputs := [.rstAssert, .edge .producer none false, .edge .consumer none true, .rstRelease .producer,
      .rstRelease .consumer] }
theorem wit_resetSequenceReturnsTheResetValues :
    BlockInv resetting ∧ portsDistinct resetting = true
      ∧ resetting.inputs = [.rstAssert, .edge .producer none false, .edge .consumer none true, .rstRelease .producer,
          .rstRelease .consumer] := by decide

/-- Under reset, with each domain's edge seen. -/
def underReset (b : Build) : State := { State.resetOf b with rstP := .asserted true, rstC := .asserted true }
theorem wit_requestUnderResetIsIgnored :
    (underReset b4).build.legal = true ∧ (Instr.push 1).wellFormed (underReset b4).build = true
      ∧ stateFault (underReset b4) = none
      ∧ (underReset b4).rstP = .asserted true ∧ (underReset b4).rstC = .asserted true
      ∧ (underReset b4).build.clocking = .sync ∧ (Instr.pop).port = .consumer ∧ (Instr.push 1).port ≠ .consumer := by
  decide
/-- An ASYNC ring with elements in it, under reset with no edge yet, and between the two domains' edges, each way: one
counter is 0 and the other is not. -/
def assertedA : State := { asyncA1 with rstP := .asserted false, rstC := .asserted false }
def midA : State := resetEdge .producer assertedA
def midC : State :=
  resetEdge .consumer
    { crossing a4 5 5 5 5 [(0, 0x14), (1, 0x11), (2, 0x12), (3, 0x13)] with
      rstP := .asserted false
      rstC := .asserted false }
theorem wit_requestUnderResetIsIgnored_async :
    (assertedA.build.legal = true ∧ (Instr.pop).wellFormed assertedA.build = true ∧ stateFault assertedA = none
        ∧ assertedA.build.clocking = .async)
      ∧ (stateFault midA = none ∧ ringFault midA = some .occupancyAboveCapacity)
      ∧ (stateFault midC = none ∧ ringFault midC = some .occupancyAboveCapacity) := by decide

/-- One domain only out of reset, each way; and under reset with no edge seen. -/
def halfP : State := { underReset a4 with rstP := .released }
def halfC : State := { underReset a4 with rstC := .released }
theorem wit_halfResetRequestsAndEarlyReleasesAreRefused :
    (halfP.build.legal = true ∧ (Instr.push 0).wellFormed halfP.build = true ∧ stateFault halfP = none
        ∧ (halfP.rstP = .released ∧ halfP.rstC ≠ .released))
      ∧ (halfC.build.legal = true ∧ (Instr.pop).wellFormed halfC.build = true ∧ stateFault halfC = none
        ∧ (halfC.rstP ≠ .released ∧ halfC.rstC = .released))
      ∧ ({ underReset a4 with rstP := .asserted false } : State).rstP = .asserted false
      ∧ ({ underReset a4 with rstC := .asserted false } : State).rstC = .asserted false := by decide

/-- A ready producer port, on a full ring, with the widest operand. -/
theorem wit_nopPAnswersOkAndChangesNothing : Ready .producer full4 ∧ 255 < 2 ^ full4.build.width := by decide
theorem wit_pendingPReturnsProducerOccupancy : Ready .producer full4 ∧ 255 < 2 ^ full4.build.width
    ∧ full4.build.clocking = .sync ∧ Ready .producer asyncA1 := by decide
theorem wit_illegalPAnswersIllegalAndChangesNothing : Ready .producer full4 ∧ 255 < 2 ^ full4.build.width := by decide
theorem wit_pushStoresAtTheTailOrReportsFull :
    (Live .producer full4 ∧ 255 < 2 ^ full4.build.width ∧ occ full4.cap full4.pushed full4.poppedView = full4.cap)
      ∧ (Live .producer mid4 ∧ occ mid4.cap mid4.pushed mid4.poppedView ≠ mid4.cap ∧ mid4.build.clocking = .sync) := by
  decide
theorem wit_pushStoresAtTheTailOrReportsFull_async :
    let s := crossing a4 5 5 3 5 []
    Live .producer s ∧ 255 < 2 ^ s.build.width ∧ occ s.cap s.pushed s.poppedView ≠ s.cap
      ∧ s.build.clocking = .async := by decide
theorem wit_pushesFillToCapacityThenReportFull :
    Live .producer empty4 ∧ (∀ v ∈ [1, 2, 3, 4, 255], v < 2 ^ empty4.build.width) ∧ empty4.pCount = 0
      ∧ [1, 2, 3, 4, 255] ≠ [] := by decide
theorem wit_nopCAnswersOkAndChangesNothing : Ready .consumer full4 := by decide
theorem wit_pendingCReturnsConsumerOccupancy : Ready .consumer full4 ∧ full4.build.clocking = .sync
    ∧ Ready .consumer asyncA1 := by decide
theorem wit_popReturnsTheHeadOrReportsEmpty :
    (Live .consumer empty4 ∧ occ empty4.cap empty4.pushedView empty4.popped = 0)
      ∧ (Live .consumer full4 ∧ occ full4.cap full4.pushedView full4.popped ≠ 0 ∧ full4.build.clocking = .sync)
      ∧ (Live .consumer asyncA1 ∧ occ 4 asyncA1.pushedView asyncA1.popped ≠ 0 ∧ asyncA1.build.clocking = .async) := by
  decide
theorem wit_peekReturnsTheHeadAndChangesNothing :
    (Live .consumer empty4 ∧ occ empty4.cap empty4.pushedView empty4.popped = 0)
      ∧ (Live .consumer full4 ∧ occ full4.cap full4.pushedView full4.popped ≠ 0) := by decide
/-- A schedule with no POP, over which the head stays. -/
theorem wit_peekReturnsTheHeadAndChangesNothing_schedule :
    Live .consumer mid4 ∧ occ mid4.cap mid4.pushedView mid4.popped ≠ 0
      ∧ (∀ x ∈ [Event.op (.push 3), .op .peek, .op (.push 4), .op (.push 5)], x ≠ .op .pop)
      ∧ (trace [.op (.push 3), .op .peek, .op (.push 4), .op (.push 5)] mid4).map (·.2) = some ([3, 4], []) := by decide
theorem wit_emptyPopsAndPeeksWriteNothing :
    Ready .consumer empty4 ∧ empty4.cCount = 0
      ∧ (∀ e ∈ [Event.op .pop, .op .peek, .op .pop], e = .op .pop ∨ e = .op .peek)
      ∧ [Event.op .pop, .op .peek, .op .pop] ≠ [] := by decide
theorem wit_onlyPopChangesTheHead :
    BlockInv mid4 ∧ Running mid4 ∧ 0 < mid4.occupancy ∧ Instr.push 7 ≠ .pop
      ∧ (nextOf (exec (.push 7) mid4)).isSome = true ∧ mid4.occupancy < mid4.cap := by decide
theorem wit_nopIAnswersOkAndChangesNothing : Ready .ingest full2 ∧ 255 < 2 ^ full2.build.frameWidth := by decide
theorem wit_ingestStampsThenStoresOrCountsTheDrop :
    (Live .ingest full2 ∧ 255 < 2 ^ full2.build.frameWidth ∧ occ full2.cap full2.pushed full2.poppedView = full2.cap)
      ∧ (Live .ingest mid2 ∧ 255 < 2 ^ mid2.build.frameWidth
        ∧ occ mid2.cap mid2.pushed mid2.poppedView ≠ mid2.cap) := by decide
theorem wit_everyFrameIsStampedAndStoredOrCounted :
    Live .ingest mid2
      ∧ (trace [.op (.ingest true 1), .op (.ingest true 2), .op (.ingest false 0), .op .pop] mid2).map (·.2)
        = some ([0x0100000002], [0x0100000001]) := by decide

/-- A read-only operation that answers. -/
theorem wit_readOnlyOperationsChangeOnlyTheirResponse :
    Running full4 ∧ (∀ v, Instr.peek ≠ .push v) ∧ Instr.peek ≠ .pop ∧ (∀ h f, Instr.peek ≠ .ingest h f)
      ∧ ∃ t, exec .peek full4 = .next t :=
  ⟨by decide, by simp, by simp, by simp, _, rfl⟩
theorem wit_readsAreIdempotent :
    Running full4 ∧ (∀ v, Instr.pendingP 3 ≠ .push v) ∧ Instr.pendingP 3 ≠ .pop
      ∧ (∀ h f, Instr.pendingP 3 ≠ .ingest h f) ∧ ∃ t, exec (.pendingP 3) full4 = .next t :=
  ⟨by decide, by simp, by simp, by simp, _, rfl⟩
theorem wit_storingOperationsFrame :
    (Running mid4 ∧ (∃ v, Instr.push 7 = .push v) ∧ ∃ t, exec (.push 7) mid4 = .next t)
      ∧ (Running mid2 ∧ (∃ h f, Instr.ingest true 7 = .ingest h f) ∧ ∃ t, exec (.ingest true 7) mid2 = .next t) :=
  ⟨⟨by decide, ⟨7, rfl⟩, _, rfl⟩, by decide, ⟨true, 7, rfl⟩, _, rfl⟩
theorem wit_popFrame : Running full4 ∧ ∃ t, exec .pop full4 = .next t := ⟨by decide, _, rfl⟩
theorem wit_responsesReadTheStateBeforeTheEdge :
    (Running full4 ∧ ∃ t, exec (.push 1) full4 = .next t) ∧ (Running full4 ∧ ∃ t, exec .pop full4 = .next t)
      ∧ (Running full2 ∧ ∃ t, exec (.ingest true 1) full2 = .next t) :=
  ⟨⟨by decide, _, rfl⟩, ⟨by decide, _, rfl⟩, by decide, _, rfl⟩
theorem wit_eachPortDrivesOnlyItsOwnCodes :
    (Running full4 ∧ ∃ t r, exec (.illegalP 1) full4 = .next t ∧ t.resp.producer = some r)
      ∧ (Running full4 ∧ ∃ t r, exec .pop full4 = .next t ∧ t.resp.consumer = some r ∧ r.data.isSome = true)
      ∧ (Running full2 ∧ ∃ t r, exec (.ingest true 1) full2 = .next t ∧ t.resp.ingest = some r) :=
  ⟨⟨by decide, _, _, rfl, rfl⟩, ⟨by decide, _, _, rfl, rfl, rfl⟩, by decide, _, _, rfl, rfl⟩
theorem wit_eachPortWritesOnlyItsOwnSide :
    (Running full4 ∧ (Instr.pop).port = .consumer ∧ ∃ t, exec .pop full4 = .next t)
      ∧ (Running mid4 ∧ (Instr.push 1).port ≠ .consumer ∧ ∃ t, exec (.push 1) mid4 = .next t) :=
  ⟨⟨by decide, rfl, _, rfl⟩, by decide, by decide, _, rfl⟩

/-- A state in the invariant that takes a step: an ASYNC block at a clock edge. -/
def edging : State := { asyncA1 with inputs := [.edge .producer (some 0x155) true] }
theorem wit_everyStepKeepsTheBlockInvariant : BlockInv edging ∧ ∃ t, step edging = .next t :=
  ⟨by decide, _, rfl⟩
theorem wit_invariantStatesNeverFault : BlockInv edging := by decide
theorem wit_noStepChangesTheBuild : ∃ t, step edging = .next t := ⟨_, rfl⟩
theorem wit_countersOnlyIncrementOrReset : (∃ t, step edging = .next t)
    ∧ ∃ t, step { underReset a4 with inputs := [.edge .consumer none false] } = .next t := ⟨⟨_, rfl⟩, _, rfl⟩

/-- Every operation of a port a build has, with the widest operands. -/
theorem wit_everyPresentOperationCompletes :
    BlockInv full4 ∧ Running full4 ∧ BlockInv full2 ∧ Running full2
      ∧ (∀ i ∈ [Instr.nopP 255, .push 255, .pendingP 255, .illegalP 255, .nopC, .pop, .peek, .pendingC],
          i.wellFormed full4.build = true)
      ∧ ∀ i ∈ [Instr.nopI true 255, .ingest true 255], i.wellFormed full2.build = true := by decide
/-- Empty, and full, in a ring of one slot. -/
theorem wit_emptyAndFullExcludeEachOther :
    let s := State.resetOf (Build.tx 1 8 .sync 2)
    let f := ring (Build.tx 1 8 .sync 2) 1 0 [(0, 7)]
    (1 ≤ s.cap ∧ s.cEmpty = true ∧ s.build.clocking = .sync) ∧ (1 ≤ f.cap ∧ f.pFull = true) := by decide
theorem wit_operationsRefineTheQueue :
    (BlockInv mid4 ∧ Running mid4 ∧ mid4.build.clocking = .sync ∧ mid4.build.hasPort .producer = true
        ∧ 255 < 2 ^ mid4.build.width ∧ mid4.pCount < mid4.cap ∧ 0 < mid4.cCount)
      ∧ (BlockInv asyncA1 ∧ Running asyncA1 ∧ 0 < asyncA1.cCount) := by decide

/-- A schedule over the crossing: 95, A1 to A3, and two POPs. -/
theorem wit_schedulesAreFirstInFirstOut :
    BlockInv asyncA1 ∧ Running asyncA1
      ∧ (trace [.op (.push 0x55), .sync .producer 1, .op (.push 0x55), .op .pop, .op .pop] asyncA1).map (·.2)
        = some ([0x55], [0x11, 0x12]) := by decide
theorem wit_drainOfTheCountNeverMeetsEmpty :
    BlockInv mid4 ∧ Running mid4
      ∧ (∀ i ∈ [Instr.pop, .push 3, .pop], i.port = .consumer → i = .pop)
      ∧ [Event.op .pop, .op (.push 3), .op .pop].count (.op .pop) ≤ mid4.cCount
      ∧ (trace [.op .pop, .op (.push 3), .op .pop] mid4).map (·.2) = some ([3], [10, 11]) := by decide
theorem wit_staleSlotsAreNotObservable :
    BlockInv empty4 ∧ Running empty4 ∧ BlockInv { empty4 with slots := [(3, 9)] }
      ∧ contents { empty4 with slots := [(3, 9)] } = contents empty4
      ∧ (nextOf (exec (.push 1) empty4)).isSome = true := by decide
theorem wit_sameCycleEqualsASequentialOrder :
    ∀ s ∈ [full4, empty4, mid4], BlockInv s ∧ Running s ∧ s.build.clocking = .sync
      ∧ decode s.build (portOf s.build .producer) 0x039 = .ok (.push 14) := by decide
theorem wit_sameCycleEqualsASequentialOrder_clauses :
    full4.occupancy = full4.cap ∧ empty4.occupancy = 0 ∧ 0 < mid4.occupancy ∧ mid4.occupancy < mid4.cap := by decide
/-- The same on a build with the front-end. -/
theorem wit_sameCycleEqualsASequentialOrder_ingest :
    ∀ s ∈ [full2, State.resetOf i2, mid2], BlockInv s ∧ Running s ∧ s.build.clocking = .sync
      ∧ decode s.build (portOf s.build .producer) 7 = .ok (.ingest true 1)
      ∧ decode s.build (portOf s.build .producer) 5 = .ok (.ingest false 1) := by decide
theorem wit_sameCycleEqualsASequentialOrder_ingest_clauses :
    full2.occupancy = full2.cap ∧ (State.resetOf i2).occupancy = 0 ∧ 0 < mid2.occupancy
      ∧ mid2.occupancy < mid2.cap := by decide

/-- 95, A8, and the same the other way round. -/
def lagP : State := crossing a4 5 5 1 5 []
def lagC : State := crossing a4 4 0 0 0 [(0, 1), (1, 2), (2, 3), (3, 4)]
theorem wit_syncStepMovesTheViewForward :
    BlockInv lagP ∧ Running lagP ∧ lagP.build.clocking = .async ∧ 4 ≤ occ lagP.cap lagP.popped lagP.poppedSeenP
      ∧ occ lagP.cap lagP.popped lagP.poppedSeenP < 5 := by decide
theorem wit_syncStepMovesTheViewForward_consumer :
    BlockInv lagC ∧ Running lagC ∧ lagC.build.clocking = .async ∧ 4 ≤ occ lagC.cap lagC.pushed lagC.pushedSeenC
      ∧ occ lagC.cap lagC.pushed lagC.pushedSeenC < 5 := by decide
theorem wit_registerEdgesObeyTheViewLaws :
    BlockInv asyncA1 ∧ Running asyncA1 ∧ asyncA1.build.clocking = .async
      ∧ (nextOf (runEdge .producer (some 0x155) true asyncA1)).isSome = true
      ∧ (nextOf (runEdge .consumer (some 1) true asyncA1)).isSome = true := by decide
theorem wit_viewsReachAStoppedCounter_edges :
    BlockInv asyncA1 ∧ Running asyncA1 ∧ asyncA1.build.clocking = .async
      ∧ asyncA1.build.nSync + 1 ≤ [(some 0x155, true), (none, false), (none, true)].length
      ∧ (nextOf (edges .producer [(some 0x155, true), (none, false), (none, true)] asyncA1)).isSome = true
      ∧ (nextOf (edges .consumer [(some 1, true), (none, false), (none, true)] asyncA1)).isSome = true := by decide
/-- A weakly fair run: the producer side lags by four, a sync step takes it all the way, and nothing happens after. -/
def caughtUp : State := { lagP with rsync := List.replicate 2 (gray 5) }
def fairSchedule : Nat → Option Input
  | 0 => some (.sync .producer 4)
  | _ + 1 => none
def fairRun : Nat → State
  | 0 => lagP
  | _ + 1 => caughtUp
theorem wit_viewsReachAStoppedCounter :
    FairRun fairSchedule fairRun ∧ BlockInv (fairRun 0) ∧ (fairRun 0).build.clocking = .async
      ∧ (∀ m, 0 ≤ m → Running (fairRun m)) ∧ (∀ m, 0 ≤ m → (fairRun m).popped = (fairRun 0).popped)
      ∧ (∀ m, 0 ≤ m → (fairRun m).pushed = (fairRun 0).pushed) := by
  refine ⟨⟨?_, ?_, ?_⟩, by decide, rfl, ?_, ?_, ?_⟩
  · intro n
    cases n with
    | zero => rfl
    | succ n => exact (show step { caughtUp with inputs := [] } = .next caughtUp by rfl)
  · exact fun n h => absurd (h (n + 1) (Nat.le_succ n)).2.2
      (show ¬ 1 ≤ occ caughtUp.cap (remoteOf .producer caughtUp) (viewOf .producer caughtUp) by decide)
  · exact fun n h => absurd (h (n + 1) (Nat.le_succ n)).2.2
      (show ¬ 1 ≤ occ caughtUp.cap (remoteOf .consumer caughtUp) (viewOf .consumer caughtUp) by decide)
  · intro m _; cases m <;> exact ⟨rfl, rfl⟩
  · intro m _; cases m <;> rfl
  · intro m _; cases m <;> rfl
theorem wit_sampleIsTheOldOrTheNewCode :
    BlockInv asyncA1 ∧ Running asyncA1 ∧ asyncA1.build.clocking = .async
      ∧ (nextOf (exec .pop asyncA1)).map (fun t => decide (t.popped ≠ asyncA1.popped)) = some true
      ∧ (BlockInv lagP ∧ Running lagP ∧ lagP.build.clocking = .async) := by decide
/-- An old code one step behind is captured by the draw, and a PUSH changes `pushed`. -/
theorem wit_sampleIsTheOldOrTheNewCode_old :
    (nextOf (exec (.push 9) (crossing a4 5 5 5 5 []))).map
      (fun t => ((capture .consumer true t).wsync.head?, (capture .consumer false t).wsync.head?))
        = some (some 0b111, some 0b101) := by decide
theorem wit_seenPositionsAreReadable : BlockInv full4 ∧ Running full4 ∧ 3 < full4.cCount := by decide

def requesting : State := { mid4 with inputs := [.request .producer 0x169] }
theorem wit_stepPerformsTheDecodedRequest :
    requesting.inputs = .request .producer 0x169 :: [] ∧ portsDistinct requesting = true
      ∧ portDriven .producer requesting = false ∧ decode requesting.build .producer 0x169 = .ok (.push 0x5A)
      ∧ decodeTableWord 8 0x03 = some (.illegalP 0) := by decide
theorem wit_stepPerformsAClockEdge :
    portsDistinct edging = true ∧ edging.inputs = .edge .producer (some 0x155) true :: []
      ∧ portDriven (portOf edging.build .producer) edging = false
      ∧ decode edging.build (portOf edging.build .producer) 0x155 = .ok (.push 0x55) ∧ Running edging
      ∧ (nextOf (exec (.push 0x55) { edging with inputs := [] })).isSome = true
      ∧ edging.build.legal = true ∧ ringFault edging = none := by decide
theorem wit_stepPerformsAClockEdge_idle :
    let s := { asyncA1 with inputs := [.edge .consumer none false] }
    portsDistinct s = true ∧ s.inputs = .edge .consumer none false :: [] ∧ Running s ∧ s.build.legal = true
      ∧ ringFault s = none := by decide
theorem wit_stepPerformsAClockEdge_shift :
    asyncA1.build.clocking = .async ∧ 1 < asyncA1.rsync.length ∧ 1 < asyncA1.wsync.length
      ∧ mid4.build.clocking = .sync := by decide
theorem wit_stepTakesTheNextInput :
    portsDistinct mid4 = true ∧ mid4.build.legal = true ∧ stateFault mid4 = none ∧ mid4.inputs = []
      ∧ (∀ e ∈ [Input.sync .producer 1, .rstAssert, .rstRelease .consumer, .agent 0, .sameCycle 1 1],
          portsDistinct { mid4 with inputs := [e] } = true)
      ∧ portDriven (portOf mid4.build .producer) mid4 = false ∧ portDriven .consumer mid4 = false := by decide

/-- A consumer agent at a POP, and one at a local step. -/
def popping : Agent := Agent.start .consumer [scriptPop, .bEmpty 0, .halt]
theorem wit_agentStepPerformsItsOperation :
    let s := { mid4 with agents := [popping] }
    s.agents[0]? = some popping ∧ popping.scriptOnPort s.build = true ∧ popping.halted = false
      ∧ popping.script[popping.ip]? = some (.op .pop) ∧ Running s ∧ (nextOf (exec .pop s)).isSome = true := by decide
/-- Each block operation of a script, on its own port. -/
theorem wit_agentStepPerformsItsOperation_each :
    (∀ i ∈ [Instr.nopP 1, .push 2, .pendingP 3, .illegalP 4],
        (Agent.start .producer [.op i]).scriptOnPort b4 = true ∧ (nextOf (exec i mid4)).isSome = true)
      ∧ (∀ i ∈ [Instr.nopC, .pop, .peek, .pendingC],
        (Agent.start .consumer [.op i]).scriptOnPort b4 = true ∧ (nextOf (exec i mid4)).isSome = true)
      ∧ ∀ i ∈ [Instr.nopI true 1, .ingest true 2, .ingest false 3],
        (Agent.start .ingest [.op i]).scriptOnPort i2 = true ∧ (nextOf (exec i mid2)).isSome = true := by decide
/-- Each agent-local step. -/
theorem wit_localStepsTouchOnlyTheirAgent_each :
    ∀ l ∈ [Line.bOk 0, .bFull 0, .bEmpty 0, .bNoMsg 0, .setNCnt, .setN 3, .decN, .bZn 0, .bNz 0, .jmp 0, .halt],
      (Agent.start .consumer [l]).scriptOnPort b4 = true ∧ (Agent.start .consumer [l]).halted = false
        ∧ (Agent.start .consumer [l]).script[(Agent.start .consumer [l]).ip]? = some l
        ∧ ∀ i ∈ [Instr.pop, .peek], l ≠ .op i := by decide
/-- An agent at its script's end, and a stopped one. -/
theorem wit_localStepsTouchOnlyTheirAgent_end :
    (Agent.start .consumer []).scriptOnPort b4 = true ∧ (Agent.start .consumer []).halted = false
      ∧ (Agent.start .consumer []).script[(Agent.start .consumer []).ip]? = none
      ∧ ({ Agent.start .consumer [] with halted := true } : Agent).halted = true := by decide
theorem wit_localStepsTouchOnlyTheirAgent :
    let a := { popping with ip := 1, st := .emptyOrNoMessage }
    let s := { mid4 with agents := [a] }
    s.agents[0]? = some a ∧ a.scriptOnPort s.build = true ∧ a.halted = false
      ∧ a.script[a.ip]? = some (.bEmpty 0) ∧ ∀ i ∈ [Instr.pop, .peek], Line.bEmpty 0 ≠ .op i := by decide
theorem wit_portOwnershipIsEnforced :
    portsDistinct { mid4 with agents := [popping, popping] } = false
      ∧ mid4.build.legal = true ∧ stateFault mid4 = none
      ∧ portDriven .consumer { mid4 with agents := [popping], inputs := [.request .consumer 1] } = true := by decide
def foreign : Agent := Agent.start .producer [scriptPop]
def tooWide : Agent := Agent.start .producer [scriptPush 256]
theorem wit_portOwnershipIsEnforced_script :
    ({ mid4 with agents := [foreign] } : State).agents[0]? = some foreign ∧ .op .pop ∈ foreign.script
      ∧ (Instr.pop).port ≠ foreign.port ∧ ({ mid4 with agents := [tooWide] } : State).agents[0]? = some tooWide
      ∧ .op (.push 256) ∈ tooWide.script ∧ (Instr.push 256).wellFormed b4 = false := by decide

end Sys2Proof.Tests
end

section
/-! SUPPORT. Facts that the proofs of the scope family share: the counter helpers as modular functions (R9), `clog2` and
the legal builds (R6, R7), what stops an operation or a step before it takes effect, and one inversion lemma for `step`. -/

namespace Sys2Proof

/-- R6: `clog2 n` is the least exponent whose power of two reaches `n`. -/
theorem clog2_le_iff {n k : Nat} : clog2 n ≤ k ↔ n ≤ 2 ^ k := by
  have hpos : 0 < 2 ^ k := Nat.two_pow_pos k
  unfold clog2
  split
  · omega
  · have hlog := Nat.log2_lt (n := n - 1) (k := k) (by omega)
    omega

@[simp] theorem clog2_two_pow (m : Nat) : clog2 (2 ^ m) = m :=
  eq_of_forall_ge_iff fun _ => clog2_le_iff.trans (Nat.pow_le_pow_iff_right Nat.one_lt_two)

/-- R62, R69: twice a capacity is a power of two exactly when the capacity is one. -/
theorem two_pow_counterWidth_eq_iff {b : Build} :
    2 ^ b.counterWidth = 2 * b.capacity ↔ ∃ k, b.capacity = 2 ^ k := by
  constructor
  · intro h
    cases hw : b.counterWidth with
    | zero => simp only [hw, Nat.pow_zero] at h; omega
    | succ m => exact ⟨m, by rw [hw, Nat.pow_succ] at h; omega⟩
  · rintro ⟨k, hk⟩
    have h2 : 2 * b.capacity = 2 ^ (k + 1) := by rw [hk, Nat.pow_succ, Nat.mul_comm]
    rw [Build.counterWidth, h2, clog2_two_pow]

/-- R62, R69: only ASYNC mode restricts the capacity, to the powers of two. -/
theorem capacityFitsClocking_iff {b : Build} :
    b.capacityFitsClocking = true ↔ (b.clocking = .async → ∃ k, b.capacity = 2 ^ k) := by
  rw [← two_pow_counterWidth_eq_iff]
  unfold Build.capacityFitsClocking
  cases b.clocking <;> simp

/-- R81 to R83: the decoder gives only requests the build's ports can carry. -/
theorem decode_wellFormed {b : Build} {p : Port} {w : Nat} {i : Instr} (h : decode b p w = .ok i) :
    i.wellFormed b = true := by
  have hfield (n : Nat) : bitField w (n + 1) 2 < 2 ^ n := Nat.mod_lt _ (Nat.two_pow_pos n)
  have hport := Machine.decode_port h
  have hfits : i.fits b = true := by
    unfold decode at h
    split at h
    · simp at h
    split at h
    · simp at h
    cases p <;> simp only [DecodeResult.ok.injEq] at h <;> subst h
    case producer => unfold decodeProducer; split <;> exact decide_eq_true (hfield b.width)
    case consumer => unfold decodeConsumer; split <;> rfl
    case ingest => unfold decodeIngest; split <;> exact decide_eq_true (hfield b.frameWidth)
  have hpresent : b.hasPort p = true := by
    cases hp : b.hasPort p with
    | true => rfl
    | false => simp [decode, hp] at h
  simp [Instr.wellFormed, hport, hpresent, hfits]

end Sys2Proof

namespace Sys2Proof.Machine

/-! ### The counter helpers (R9) -/

theorem inc_eq_mod {C x : Nat} (h : x < 2 * C) : inc C x = (x + 1) % (2 * C) := by
  unfold inc
  split
  · have hwrap : x + 1 = 2 * C := by omega
    rw [hwrap, Nat.mod_self]
  · rw [Nat.mod_eq_of_lt (by omega)]

theorem idx_eq_mod {C x : Nat} (h : x < 2 * C) : idx C x = x % C := by
  unfold idx
  split
  · rw [Nat.mod_eq_sub_mod (by assumption), Nat.mod_eq_of_lt (by omega)]
  · rw [Nat.mod_eq_of_lt (by omega)]

theorem occ_eq_emod {C a b : Nat} (ha : a < 2 * C) (hb : b < 2 * C) :
    (occ C a b : Int) = ((a : Int) - (b : Int)) % (2 * (C : Int)) := by
  unfold occ
  split
  · rw [← Int.add_emod_right, Int.emod_eq_of_lt (by omega) (by omega)]
    omega
  · rw [Int.emod_eq_of_lt (by omega) (by omega)]
    omega

/-! ### What stops an operation or a step before it takes effect (R7, R80, R86, R140) -/

variable {s t : State}

/-- Every operation is performed under the shared conditions of a request. -/
theorem exec_eq_operate (i : Instr) (s : State) : ∃ op, exec i s = operate i s op := by
  cases i <;>
    · simp only [exec, execNopP, execPush, execPendingP, execIllegalP, execNopC, execPop, execPeek, execPendingC,
        execNopI, execIngest]
      exact ⟨_, rfl⟩

theorem exec_illegal (i : Instr) (h : s.build.legal = false) : exec i s = .refused .illegalBuild := by
  obtain ⟨op, hop⟩ := exec_eq_operate i s
  simp [hop, operate, h]

theorem exec_portAbsent {i : Instr} (hl : s.build.legal = true) (hp : s.build.hasPort i.port = false) :
    exec i s = .refused .portAbsent := by
  obtain ⟨op, hop⟩ := exec_eq_operate i s
  simp [hop, operate, hl, hp]

theorem composed_illegal {r : Result} (hd : portsDistinct s = true) (hl : s.build.legal = false) :
    composed s r = .refused .illegalBuild := by
  simp [composed, guarded, hd, hl]

/-- Every step is taken under the conditions of a composition, in the state without the input it takes. -/
theorem step_eq_composed (s : State) : ∃ r, step s = composed { s with inputs := s.inputs.tail } r := by
  unfold step
  split
  · rename_i hnil
    exact ⟨.next s, by rw [hnil, List.tail_nil, ← hnil]; rfl⟩
  · rename_i hcons
    exact ⟨_, by rw [hcons]; rfl⟩

/-- A request that fits its port meets the conditions of a step itself, so that the step's own change nothing. -/
theorem composed_exec {i : Instr} (hd : portsDistinct s = true) (hw : i.wellFormed s.build = true) :
    composed s (exec i s) = exec i s := by
  obtain ⟨hp, hf⟩ : s.build.hasPort i.port = true ∧ i.fits s.build = true := by
    simpa [Instr.wellFormed] using hw
  cases hl : s.build.legal with
  | false => rw [composed_illegal hd hl, exec_illegal i hl]
  | true =>
    cases hs : stateFault s with
    | none => exact composed_ok hd hl hs
    | some f =>
      obtain ⟨op, hop⟩ := exec_eq_operate i s
      simp [composed, guarded, operate, hop, hd, hl, hp, hf, hs]

/-! ### What a step does -/

/-- What an input does where the conditions of a step let it take effect. -/
def Input.effect (e : Input) (s : State) : Result :=
  match e with
  | .request p bits => runRequest p bits s
  | .sameCycle producerBits consumerBits => runSameCycle producerBits consumerBits s
  | .edge d bits late => runEdge d bits late s
  | .agent k => agentStep k s
  | .sync d k => syncStep d k s
  | .rstAssert => .next (assertReset s)
  | .rstRelease d => releaseReset d s

theorem fromOutside_next {p : Port} {r : Result} (h : fromOutside p s r = .next t) :
    portDriven p s = false ∧ r = .next t := by
  unfold fromOutside at h
  split at h
  · simp at h
  · exact ⟨by simp_all, h⟩

/-- An input that answers a next state met the conditions of a step and took effect. -/
theorem takeInput_next {e : Input} (h : takeInput e s = .next t) :
    portsDistinct s = true ∧ s.build.legal = true ∧ stateFault s = none ∧ e.effect s = .next t := by
  obtain ⟨hd, hl, hs, h⟩ := composed_next h
  refine ⟨hd, hl, hs, ?_⟩
  cases e with
  | request p bits => exact (fromOutside_next h).2
  | sameCycle v w => exact (fromOutside_next (fromOutside_next h).2).2
  | edge d bits late =>
    cases bits with
    | none => exact h
    | some w => exact (fromOutside_next h).2
  | agent k => exact h
  | sync d k => exact h
  | rstAssert => exact h
  | rstRelease d => exact h

/-- A step that answers a next state is idle with no input (R175), or the effect of its next input. -/
theorem step_next (h : step s = .next t) :
    (s.inputs = [] ∧ t = s)
      ∨ ∃ e rest, s.inputs = e :: rest ∧ e.effect { s with inputs := rest } = .next t := by
  unfold step at h
  split at h
  · obtain ⟨-, -, -, h⟩ := composed_next h
    exact .inl ⟨by assumption, (Host.Outcome.next.inj h).symm⟩
  · obtain ⟨-, -, -, h⟩ := takeInput_next h
    exact .inr ⟨_, _, by assumption, h⟩

/-! ### The build is kept (R6, R182) -/

theorem exec_build {i : Instr} (h : exec i s = .next t) : t.build = s.build := by
  rcases exec_next h with hr | ⟨-, -, rfl⟩
  · exact (exec_surroundings hr h).1
  · simp

theorem idleEdge_build {d : Domain} {late : Bool} (h : idleEdge d late s = .next t) : t.build = s.build := by
  rcases idleEdge_next h with ⟨-, ⟨-, rfl⟩ | ⟨-, rfl⟩⟩ <;> simp

theorem runEdge_build {d : Domain} {bits : Option Nat} {late : Bool} (h : runEdge d bits late s = .next t) :
    t.build = s.build := by
  rcases runEdge_next h with ⟨-, h⟩ | ⟨i, u, -, hu, rfl⟩
  · exact idleEdge_build h
  · split
    · rw [capture_build, exec_build hu]
    · exact exec_build hu

theorem agentStep_build {k : Nat} (h : agentStep k s = .next t) : t.build = s.build := by
  rcases agentStep_next h with rfl | ⟨a, rfl⟩ | ⟨i, u, a, hu, rfl⟩
  · rfl
  · simp
  · rw [setAgent_build, exec_build hu]

theorem effect_build {e : Input} (h : e.effect s = .next t) : t.build = s.build := by
  cases e with
  | request p bits =>
    obtain ⟨i, -, hi⟩ := runRequest_next h
    exact exec_build hi
  | sameCycle v w =>
    obtain ⟨-, i, j, u, x, -, -, hu, -, rfl⟩ := runSameCycle_next h
    rw [mergeCycle_build, exec_build hu]
  | edge d bits late => exact runEdge_build h
  | agent k => exact agentStep_build h
  | sync d k =>
    obtain ⟨-, -, -, -, h⟩ := syncStep_next h
    rw [syncBy_next h]
  | rstAssert =>
    cases h
    rfl
  | rstRelease d =>
    obtain ⟨-, -, ht, -⟩ := releaseReset_next h
    rw [ht]

/-! ### A step with a request (R11, R170) -/

theorem runRequest_ok {p : Port} {bits : Nat} {i : Instr} (h : decode s.build p bits = .ok i) :
    runRequest p bits s = exec i s := by
  simp [runRequest, h]

/-- A request on a port that no agent drives performs the instruction its bits decode to. -/
theorem takeInput_request {p : Port} {bits : Nat} {i : Instr} (hd : portsDistinct s = true)
    (hp : portDriven p s = false) (h : decode s.build p bits = .ok i) :
    takeInput (.request p bits) s = exec i s := by
  simp only [takeInput, fromOutside, hp, runRequest_ok h]
  exact composed_exec hd (decode_wellFormed h)

/-- The reset state's build and ports stay when a table word is placed: only the input is new. -/
theorem reset_withFetchWord (nbits w : Nat) :
    State.reset.withFetchWord nbits w
      = { State.reset with inputs := [.request tableWordPort (tableWordBits nbits w)] } := rfl

theorem decode_of_decodeTableWord {nbits w : Nat} {i : Instr} (h : decodeTableWord nbits w = some i) :
    decode Build.default tableWordPort (tableWordBits nbits w) = .ok i := by
  unfold decodeTableWord at h
  cases hr : decode Build.default tableWordPort (tableWordBits nbits w) with
  | ok j => simpa [hr, DecodeResult.instr?] using h
  | rejected r => simp [hr, DecodeResult.instr?] at h

end Sys2Proof.Machine
end

section
/-! PROOFS. The obligations of the family 00_scope.md. -/

namespace Sys2Proof.Proofs.Scope

open Sys2Proof Sys2Proof.Machine

/-- Settles O9: the least-exponent law of `clog2`, and the checks of `legal` one by one. -/
theorem legalBuildsAreThoseOfTheParameterTable : Obligations.LegalBuildsAreThoseOfTheParameterTable := by
  refine ⟨fun _ _ => clog2_le_iff, fun b => ?_⟩
  have hfront : (!b.ingestPresent || decide (33 ≤ b.width)) = true ↔ (b.ingestPresent = true → 33 ≤ b.width) := by
    cases b.ingestPresent <;> simp
  simp only [Build.legal, Bool.and_eq_true, decide_eq_true_eq, capacityFitsClocking_iff, hfront, and_assoc]

/-- Settles O41: no input has an effect on the build, and the idle step changes nothing. -/
theorem noStepChangesTheBuild : Obligations.NoStepChangesTheBuild := by
  intro s t h
  rcases step_next h with ⟨-, rfl⟩ | ⟨e, rest, -, he⟩
  · rfl
  · have hb := effect_build he
    exact hb

/-- Settles O5: each helper in closed form on the counter range. -/
theorem counterHelpersAreModular : Obligations.CounterHelpersAreModular := by
  intro C a b _ ha hb
  exact ⟨inc_eq_mod ha, idx_eq_mod ha, occ_eq_emod ha hb⟩

/-- Settles O10: the conditions of a step and of a request are checked before either takes effect. -/
theorem illegalBuildsAndAbsentPortsAreRefused : Obligations.IllegalBuildsAndAbsentPortsAreRefused := by
  intro i s
  refine ⟨exec_illegal i, fun hl hd => ?_, fun hl hi hp => ?_, fun hl hi hp => ?_⟩
  · obtain ⟨r, hr⟩ := step_eq_composed s
    rw [hr]
    exact composed_illegal hd hl
  · exact exec_portAbsent hl (by simp [Build.hasPort, hp, hi])
  · exact exec_portAbsent hl (by simp [Build.hasPort, hp, hi])

/-- Settles O55: a decoded request fits its port, so a step's conditions add nothing to those of the operation; a table
word on the reset state is such a request. -/
theorem stepPerformsTheDecodedRequest : Obligations.StepPerformsTheDecodedRequest := by
  refine ⟨fun s p bits rest i hin hd hp hdec => ?_, fun nbits w i h => ?_⟩
  · rw [step, hin]
    exact takeInput_request hd hp hdec
  · rw [reset_withFetchWord]
    exact takeInput_request (s := State.reset) rfl rfl (decode_of_decodeTableWord h)

end Sys2Proof.Proofs.Scope
end

section
/-! SUPPORT. One half of the ASYNC crossing (R30, R62 to R66): how far each of its codes lags behind the counter, and
what a change of the counter, a capturing edge, a sync step and a reset edge do to it. -/

namespace Sys2Proof.Machine

/-- R63: decoding inverts the Gray code. -/
theorem bin_gray {w x : Nat} (h : x < 2 ^ w) : bin w (gray x) = x := by
  induction w generalizing x with
  | zero =>
    have h0 : x = 0 := by simpa using h
    subst h0
    rfl
  | succ w ih =>
    rw [bin, gray_shift, ih (half_lt h), gray, Nat.xor_assoc, Nat.xor_self, Nat.xor_zero]

/-- How far a code lags behind the counter it was taken from. -/
def codeLag (b : Build) (remote g : Nat) : Nat := occ b.capacity remote (bin b.counterWidth g)

/-- How far the view that a chain shows lags behind the counter (R65, R66). -/
def viewLag (b : Build) (remote : Nat) (chain : List Nat) : Nat := codeLag b remote (chain.getLastD 0)

variable {b : Build} {remote reg old g x : Nat} {chain : List Nat}

theorem chainInv_iff : ChainInv b remote reg old chain ↔
    reg = gray remote ∧ chain.length = b.nSync ∧ (∀ g ∈ old :: chain, g < 2 ^ b.counterWidth)
      ∧ (old :: chain).Pairwise (fun g g' => codeLag b remote g ≤ codeLag b remote g') ∧ codeLag b remote old ≤ 1 := by
  simp only [ChainInv, lags, List.pairwise_map]
  rfl

theorem ChainInv.ne_nil (h : ChainInv b remote reg old chain) (hl : b.legal = true) : chain ≠ [] := by
  have hn := (legal_facts hl).2.1
  have hlen := h.2.1
  rintro rfl
  simp at hlen
  omega

theorem getLastD_mem {l : List Nat} (h : l ≠ []) : l.getLastD 0 ∈ l := by
  rw [List.getLastD_eq_getLast?, List.getLast?_eq_some_getLast h]
  exact List.getLast_mem h

/-- The view lags at least as far behind as every code of its chain. -/
theorem ChainInv.codeLag_le_viewLag (h : ChainInv b remote reg old chain) (hl : b.legal = true)
    (hg : g ∈ old :: chain) : codeLag b remote g ≤ viewLag b remote chain := by
  obtain ⟨-, -, -, hpair, -⟩ := chainInv_iff.mp h
  obtain hnil | ⟨stages, last, rfl⟩ := List.eq_nil_or_concat chain
  · exact absurd hnil (h.ne_nil hl)
  · rw [viewLag, List.concat_eq_append, List.getLastD_concat]
    rw [List.concat_eq_append, ← List.cons_append, List.mem_append, List.mem_singleton] at hg
    rw [List.concat_eq_append, ← List.cons_append, List.pairwise_append] at hpair
    rcases hg with hg | rfl
    · exact hpair.2.2 g hg last (List.mem_singleton_self last)
    · exact Nat.le_refl _

/-- A chain whose codes lag by `n` at most shows a view that lags by `n` at most. -/
theorem viewLag_le {n : Nat} (hne : chain ≠ []) (h : ∀ g ∈ chain, codeLag b remote g ≤ n) :
    viewLag b remote chain ≤ n :=
  h _ (getLastD_mem hne)

section
variable (hl : b.legal = true) (ha : b.clocking = .async)
include hl ha

theorem codeLag_gray (hx : x < 2 * b.capacity) : codeLag b remote (gray x) = occ b.capacity remote x := by
  rw [codeLag, bin_gray ((legal_facts hl).2.2.1 ha ▸ hx)]

theorem gray_code_lt (hx : x < 2 * b.capacity) : gray x < 2 ^ b.counterWidth :=
  gray_lt ((legal_facts hl).2.2.1 ha ▸ hx)

/-- A counter that moves on leaves each code one further behind. -/
theorem codeLag_inc (hr : remote < 2 * b.capacity) (hg : g < 2 ^ b.counterWidth)
    (h : codeLag b remote g + 1 < 2 * b.capacity) :
    codeLag b (inc b.capacity remote) g = codeLag b remote g + 1 :=
  occ_inc_left hr ((legal_facts hl).2.2.1 ha ▸ bin_lt hg) h

theorem ChainInv.viewLag_inc (h : ChainInv b remote reg old chain) (hr : remote < 2 * b.capacity)
    (hv : viewLag b remote chain + 1 < 2 * b.capacity) :
    viewLag b (inc b.capacity remote) chain = viewLag b remote chain + 1 :=
  codeLag_inc hl ha hr (h.2.2.1 _ (List.mem_cons_of_mem _ (getLastD_mem (h.ne_nil hl)))) hv

/-- The counter moves on and its register with it: the code before the change is near the next edge (R30, R64). -/
theorem ChainInv.inc (h : ChainInv b remote reg old chain) (hr : remote < 2 * b.capacity)
    (hv : viewLag b remote chain + 1 < 2 * b.capacity) :
    ChainInv b (inc b.capacity remote) (gray (inc b.capacity remote)) reg chain := by
  obtain ⟨rfl, hlen, hcode, hpair, -⟩ := chainInv_iff.mp h
  have hcode' : ∀ g ∈ gray remote :: chain, g < 2 ^ b.counterWidth :=
    List.forall_mem_cons.mpr ⟨gray_code_lt hl ha hr, fun g hg => hcode g (List.mem_cons_of_mem _ hg)⟩
  have hlag : ∀ g ∈ chain, codeLag b (Machine.inc b.capacity remote) g = codeLag b remote g + 1 := fun g hg => by
    have hle := h.codeLag_le_viewLag hl (List.mem_cons_of_mem _ hg)
    exact codeLag_inc hl ha hr (hcode' g (List.mem_cons_of_mem _ hg)) (by omega)
  have hreg : codeLag b (Machine.inc b.capacity remote) (gray remote) = 1 := by
    have hzero : codeLag b remote (gray remote) = 0 := by rw [codeLag_gray hl ha hr, occ_self]
    rw [codeLag_inc hl ha hr (gray_code_lt hl ha hr) (by omega), hzero]
  refine chainInv_iff.mpr ⟨rfl, hlen, hcode', List.pairwise_cons.mpr ⟨fun g hg => ?_, ?_⟩, hreg.le⟩
  · rw [hreg, hlag g hg]
    omega
  · exact (List.pairwise_cons.mp hpair).2.imp_of_mem fun hg hg' hle => by
      rw [hlag _ hg, hlag _ hg']
      omega

/-- With no change near, the register's own code stands for the old one (R64). -/
theorem ChainInv.settle (h : ChainInv b remote reg old chain) (hr : remote < 2 * b.capacity) :
    ChainInv b remote (gray remote) (gray remote) chain := by
  obtain ⟨-, hlen, hcode, hpair, -⟩ := chainInv_iff.mp h
  have hzero : codeLag b remote (gray remote) = 0 := by rw [codeLag_gray hl ha hr, occ_self]
  refine chainInv_iff.mpr ⟨rfl, hlen, List.forall_mem_cons.mpr ⟨gray_code_lt hl ha hr,
    fun g hg => hcode g (List.mem_cons_of_mem _ hg)⟩, List.pairwise_cons.mpr ⟨fun g _ => ?_,
    (List.pairwise_cons.mp hpair).2⟩, ?_⟩ <;> omega

/-- A capturing edge puts a sample in front of the chain and drops its last stage (R30, R64). -/
theorem ChainInv.capture (h : ChainInv b remote reg old chain) (hr : remote < 2 * b.capacity)
    (hx : x = reg ∨ x = old) : ChainInv b remote reg reg (x :: chain.dropLast) := by
  obtain ⟨rfl, hlen, hcode, hpair, -⟩ := chainInv_iff.mp h
  have hzero : codeLag b remote (gray remote) = 0 := by rw [codeLag_gray hl ha hr, occ_self]
  have hreg := gray_code_lt hl ha hr
  have hsub : List.Sublist (old :: chain.dropLast) (old :: chain) := (List.dropLast_sublist chain).cons_cons old
  have hfront : x < 2 ^ b.counterWidth ∧ ∀ g ∈ chain.dropLast, codeLag b remote x ≤ codeLag b remote g := by
    rcases hx with rfl | rfl
    · exact ⟨hreg, fun g _ => by omega⟩
    · exact ⟨hcode _ List.mem_cons_self, (List.pairwise_cons.mp (hpair.sublist hsub)).1⟩
  refine chainInv_iff.mpr ⟨rfl, ?_, ?_, List.pairwise_cons.mpr ⟨fun g _ => by omega,
    List.pairwise_cons.mpr ⟨hfront.2, (List.pairwise_cons.mp (hpair.sublist hsub)).2⟩⟩, by omega⟩
  · have hpos := List.length_pos_iff.mpr (h.ne_nil hl)
    rw [List.length_cons, List.length_dropLast, hlen]
    omega
  · exact List.forall_mem_cons.mpr ⟨hreg, List.forall_mem_cons.mpr ⟨hfront.1, fun g hg =>
      hcode g (hsub.subset (List.mem_cons_of_mem _ hg))⟩⟩

/-- After a capturing edge the view lags no further behind than before it. -/
theorem ChainInv.viewLag_capture (h : ChainInv b remote reg old chain) (hr : remote < 2 * b.capacity)
    (hx : x = reg ∨ x = old) : viewLag b remote (x :: chain.dropLast) ≤ viewLag b remote chain := by
  refine viewLag_le (List.cons_ne_nil _ _) (List.forall_mem_cons.mpr ⟨?_, fun g hg =>
    h.codeLag_le_viewLag hl (List.mem_cons_of_mem _ (List.mem_of_mem_dropLast hg))⟩)
  rcases hx with rfl | rfl
  · rw [h.1, codeLag_gray hl ha hr, occ_self]
    exact Nat.zero_le _
  · exact h.codeLag_le_viewLag hl List.mem_cons_self

/-- A stage that is taken along by a sync step lags as far behind as the step's target. -/
theorem codeLag_catchUp (hx : x < 2 * b.capacity) :
    codeLag b remote (catchUp b.capacity b.counterWidth remote x g)
      = min (occ b.capacity remote x) (codeLag b remote g) := by
  unfold catchUp
  split
  · rw [codeLag_gray hl ha hx]
    exact (min_eq_left (Nat.le_of_lt ‹_›)).symm
  · exact (min_eq_right (Nat.le_of_not_lt ‹_›)).symm

theorem catchUp_code_lt (hx : x < 2 * b.capacity) (hg : g < 2 ^ b.counterWidth) :
    catchUp b.capacity b.counterWidth remote x g < 2 ^ b.counterWidth := by
  unfold catchUp
  split
  · exact gray_code_lt hl ha hx
  · exact hg

/-- A sync step takes every code that lags behind its target along (R65, R66). -/
theorem ChainInv.catchUp (h : ChainInv b remote reg old chain) (hx : x < 2 * b.capacity) :
    ChainInv b remote reg (catchUp b.capacity b.counterWidth remote x old)
      (chain.map (catchUp b.capacity b.counterWidth remote x)) := by
  obtain ⟨hreg, hlen, hcode, hpair, hold⟩ := chainInv_iff.mp h
  refine chainInv_iff.mpr ⟨hreg, by rw [List.length_map, hlen], ?_, ?_, ?_⟩
  · rw [← List.map_cons]
    exact List.forall_mem_map.mpr fun g hg => catchUp_code_lt hl ha hx (hcode g hg)
  · rw [← List.map_cons, List.pairwise_map]
    refine hpair.imp fun hle => ?_
    rw [codeLag_catchUp hl ha hx, codeLag_catchUp hl ha hx]
    omega
  · rw [codeLag_catchUp hl ha hx]
    omega

theorem ChainInv.viewLag_catchUp (h : ChainInv b remote reg old chain) (hx : x < 2 * b.capacity) :
    viewLag b remote (chain.map (Machine.catchUp b.capacity b.counterWidth remote x)) ≤ viewLag b remote chain := by
  refine viewLag_le (by simpa using h.ne_nil hl) (List.forall_mem_map.mpr fun g hg => ?_)
  have hle := h.codeLag_le_viewLag hl (List.mem_cons_of_mem _ hg)
  rw [codeLag_catchUp hl ha hx]
  omega
end

/-- The chain as it is full of the code that it would have captured last. -/
theorem ChainInv.refill (h : ChainInv b remote reg old chain) :
    ChainInv b remote reg old (List.replicate b.nSync old) := by
  obtain ⟨hreg, -, hcode, -, hold⟩ := chainInv_iff.mp h
  rw [chainInv_iff, ← List.replicate_succ]
  refine ⟨hreg, List.length_replicate, fun g hg => ?_, List.pairwise_replicate.mpr (.inr (Nat.le_refl _)), hold⟩
  rw [List.eq_of_mem_replicate hg]
  exact hcode old List.mem_cons_self

theorem ChainInv.viewLag_refill (h : ChainInv b remote reg old chain) (hl : b.legal = true) :
    viewLag b remote (List.replicate b.nSync old) ≤ viewLag b remote chain := by
  refine viewLag_le (h.refill.ne_nil hl) fun g hg => ?_
  rw [List.eq_of_mem_replicate hg]
  exact h.codeLag_le_viewLag hl List.mem_cons_self

end Sys2Proof.Machine
end

section
/-! SUPPORT. What keeps the block invariant (R26, R30, R37, R67): storing, taking, a capturing edge, a sync step and the
reset input, each once. -/

namespace Sys2Proof.Machine

variable {s t : State}

/-! ### The counters' invariant in each clocking -/

/-- In SYNC mode the counters' invariant is R26's bound alone. -/
theorem countersInv_sync_iff (hk : s.build.clocking = .sync) : CountersInv s ↔ s.occupancy ≤ s.cap := by
  have hc := sync_counts hk
  simp [CountersInv, hk, hc.1, hc.2]

/-- In ASYNC mode it is that of the two halves of the crossing, with a bound on how far each view lags behind. -/
theorem countersInv_async_iff (hl : s.build.legal = true) (hk : s.build.clocking = .async)
    (hp : s.pushed < 2 * s.cap) (hq : s.popped < 2 * s.cap) : CountersInv s ↔
      ChainInv s.build s.popped s.poppedGray s.poppedGrayOld s.rsync
        ∧ ChainInv s.build s.pushed s.pushedGray s.pushedGrayOld s.wsync
        ∧ s.occupancy + viewLag s.build s.popped s.rsync ≤ s.cap
        ∧ viewLag s.build s.pushed s.wsync ≤ s.occupancy := by
  have hcap : 1 ≤ s.cap := (legal_facts hl).1
  have hcounts : s.pCount = occ s.cap s.pushed s.poppedSeenP ∧ s.cCount = occ s.cap s.pushedSeenC s.popped := by
    simp [State.pCount, State.cCount, State.poppedView, State.pushedView, hk]
  have hlagP : viewLag s.build s.popped s.rsync = occ s.cap s.popped s.poppedSeenP := rfl
  have hlagC : viewLag s.build s.pushed s.wsync = occ s.cap s.pushed s.pushedSeenC := rfl
  rw [hlagP, hlagC]
  unfold CountersInv State.occupancy
  rw [hcounts.1, hcounts.2]
  constructor
  · rintro ⟨-, hle, hfull, hempty, hchains⟩
    obtain ⟨hr, hw⟩ := hchains hk
    have hviewP : s.poppedSeenP < 2 * s.cap := seen_lt hl hk hr
    have hviewC : s.pushedSeenC < 2 * s.cap := seen_lt hl hk hw
    have hsplitP := occ_split hq hviewP hle
    have hsplitC := occ_split_left hp hq hviewC hempty
    exact ⟨hr, hw, by omega, by omega⟩
  · rintro ⟨hr, hw, hroom, hseen⟩
    have hviewP : s.poppedSeenP < 2 * s.cap := seen_lt hl hk hr
    have hviewC : s.pushedSeenC < 2 * s.cap := seen_lt hl hk hw
    have hjoin := occ_join hp hq hviewP (by omega)
    have hbetween := occ_between hq hviewC hseen
    exact ⟨by omega, by omega, by omega, hbetween, fun _ => ⟨hr, hw⟩⟩

/-- The live slots have values exactly when every entry of the contents has (R37, R38). -/
theorem liveSlots_iff : (∀ k < s.occupancy, (s.slot (idx s.cap (advance s.cap s.popped k))).isSome = true)
    ↔ ∀ o ∈ contents s, o.isSome = true := by
  simp [contents]

/-! ### Storing and taking -/

theorem BlockInv.runningInv (h : BlockInv s) (hr : Running s) : RunningInv s := h.2.2.2.2.1 hr

/-- The halves of the crossing of a running ASYNC block, with the bounds of `countersInv_async_iff`. -/
theorem BlockInv.crossing (h : BlockInv s) (hr : Running s) (hk : s.build.clocking = .async) :
    ChainInv s.build s.popped s.poppedGray s.poppedGrayOld s.rsync
      ∧ ChainInv s.build s.pushed s.pushedGray s.pushedGrayOld s.wsync
      ∧ s.occupancy + viewLag s.build s.popped s.rsync ≤ s.cap
      ∧ viewLag s.build s.pushed s.wsync ≤ s.occupancy := by
  have hcounters := (h.runningInv hr).1
  obtain ⟨hl, -, hp, hq, -⟩ := h
  exact (countersInv_async_iff hl hk hp hq).mp hcounters

theorem store_pushedGray_async (v : Elem) (hk : s.build.clocking = .async) :
    (s.store v).pushedGray = gray (inc s.cap s.pushed) := by
  simp [State.store, State.setPushed, hk, State.cap]

theorem store_pushedGrayOld_async (v : Elem) (hk : s.build.clocking = .async) :
    (s.store v).pushedGrayOld = s.pushedGray := by
  simp [State.store, State.setPushed, hk, State.cap]

theorem take_poppedGray_async (hk : s.build.clocking = .async) : s.take.poppedGray = gray (inc s.cap s.popped) := by
  simp [State.take, State.setPopped, hk]

theorem take_poppedGrayOld_async (hk : s.build.clocking = .async) : s.take.poppedGrayOld = s.poppedGray := by
  simp [State.take, State.setPopped, hk]

theorem store_countersInv (h : BlockInv s) (hr : Running s) (hc : s.pCount ≠ s.cap) (v : Elem) :
    CountersInv (s.store v) := by
  have hocc := store_occupancy h hr hc v
  obtain ⟨⟨-, hle, hroom, -⟩, -⟩ := h.runningInv hr
  cases hk : s.build.clocking with
  | sync =>
    rw [countersInv_sync_iff (by simpa using hk), hocc, store_cap]
    omega
  | async =>
    obtain ⟨hrsync, hwsync, hviewP, hviewC⟩ := h.crossing hr hk
    have hcount := (view_facts h hr).2.2.1
    obtain ⟨hl, -, hp, hq, -⟩ := h
    have hlag : viewLag s.build s.pushed s.wsync + 1 < 2 * s.cap := by omega
    have hinc : viewLag s.build (inc s.cap s.pushed) s.wsync = viewLag s.build s.pushed s.wsync + 1 :=
      hwsync.viewLag_inc hl hk hp hlag
    have hcountP : s.pCount = s.occupancy + viewLag s.build s.popped s.rsync := by
      rw [hcount, State.poppedView, hk]; rfl
    rw [countersInv_async_iff (by simpa using hl) (by simpa using hk) (by simpa using inc_lt hp) (by simpa using hq),
      hocc, store_pushedGray_async v hk, store_pushedGrayOld_async v hk]
    simp only [store_build, store_popped, store_poppedGray, store_poppedGrayOld, store_rsync, store_pushed, store_wsync,
      store_cap, hinc]
    exact ⟨hrsync, hwsync.inc hl hk hp hlag, by omega, by omega⟩

theorem take_countersInv (h : BlockInv s) (hr : Running s) (hc : s.cCount ≠ 0) : CountersInv s.take := by
  have hocc := take_occupancy h hr hc
  obtain ⟨⟨hbound, -⟩, -⟩ := h.runningInv hr
  cases hk : s.build.clocking with
  | sync =>
    rw [countersInv_sync_iff (by simpa using hk), take_cap]
    omega
  | async =>
    obtain ⟨hrsync, hwsync, hviewP, hviewC⟩ := h.crossing hr hk
    have hcount := (view_facts h hr).2.2.2
    obtain ⟨hl, -, hp, hq, -⟩ := h
    have hlag : viewLag s.build s.popped s.rsync + 1 < 2 * s.cap := by omega
    have hinc : viewLag s.build (inc s.cap s.popped) s.rsync = viewLag s.build s.popped s.rsync + 1 :=
      hrsync.viewLag_inc hl hk hq hlag
    have hcountC : s.occupancy = s.cCount + viewLag s.build s.pushed s.wsync := by
      rw [hcount, State.pushedView, hk]; rfl
    rw [countersInv_async_iff (by simpa using hl) (by simpa using hk) (by simpa using hp) (by simpa using inc_lt hq),
      take_poppedGray_async hk, take_poppedGrayOld_async hk]
    simp only [take_build, take_popped, take_rsync, take_pushed, take_pushedGray, take_pushedGrayOld, take_wsync,
      take_cap, hinc]
    exact ⟨hrsync.inc hl hk hq hlag, hwsync, by omega, by omega⟩

/-- A store that the producer's view admits keeps the invariant. -/
theorem BlockInv.store (h : BlockInv s) (hr : Running s) (hc : s.pCount ≠ s.cap) {v : Elem}
    (hv : v < 2 ^ s.build.width) : BlockInv (s.store v) := by
  have hcounters := store_countersInv h hr hc v
  have hslots : ∀ o ∈ contents (s.store v), o.isSome = true := by
    rw [contents_store h hr hc v]
    exact List.forall_mem_append.mpr ⟨liveSlots_iff.mp (h.runningInv hr).2, by simp⟩
  obtain ⟨hl, hm, hp, hq, -⟩ := h
  exact blockInv_of_running (by simpa using hl)
    (by simpa only [store_cap, store_build, store_slots] using Memory.wf_write hm (idx_lt hp) hv)
    (by simpa using inc_lt hp) (by simpa using hq) (by simpa [Running] using hr) ⟨hcounters, liveSlots_iff.mpr hslots⟩

/-- A take that the consumer's view admits keeps the invariant. -/
theorem BlockInv.take (h : BlockInv s) (hr : Running s) (hc : s.cCount ≠ 0) : BlockInv s.take := by
  have hcounters := take_countersInv h hr hc
  have hslots : ∀ o ∈ contents s.take, o.isSome = true := by
    obtain ⟨e, -, -, hhead⟩ := contents_take h hr hc
    have hlive := liveSlots_iff.mp (h.runningInv hr).2
    rw [hhead] at hlive
    exact (List.forall_mem_cons.mp hlive).2
  obtain ⟨hl, hm, hp, hq, -⟩ := h
  exact blockInv_of_running (by simpa using hl) (by simpa using hm) (by simpa using hp) (by simpa using inc_lt hq)
    (by simpa [Running] using hr) ⟨hcounters, liveSlots_iff.mpr hslots⟩

/-- Out of reset the invariant says nothing of the event counters. -/
theorem BlockInv.setEvents (h : BlockInv s) (hr : Running s) (q d : Word32) :
    BlockInv { s with seq := q, dropCount := d } := by
  have hrun := h.runningInv hr
  obtain ⟨hl, hm, hp, hq, -⟩ := h
  exact blockInv_of_running hl hm hp hq hr hrun

/-! ### The response, the inputs and the agents, of which the invariant says nothing -/

theorem blockInv_respond {p : Port} {st : Status} {d : Option Elem} {pre : State} :
    BlockInv (respond p st d pre s) ↔ BlockInv s := Iff.rfl

theorem blockInv_respondUnspecified {p : Port} : BlockInv (respondUnspecified p s) ↔ BlockInv s := Iff.rfl

theorem blockInv_setAgent {k : Nat} {a : Agent} : BlockInv (setAgent k a s) ↔ BlockInv s := Iff.rfl

theorem blockInv_setInputs {rest : List Input} : BlockInv { s with inputs := rest } ↔ BlockInv s := Iff.rfl

/-! ### The crossing -/

/-- What moves only the crossing keeps the invariant, where both halves of it hold and no view lags further behind. -/
theorem BlockInv.of_crossing (h : BlockInv s) (hr : Running s) (hk : s.build.clocking = .async)
    (ht : t = { s with rsync := t.rsync, wsync := t.wsync, pushedGrayOld := t.pushedGrayOld,
                       poppedGrayOld := t.poppedGrayOld })
    (hrsync : ChainInv s.build s.popped s.poppedGray t.poppedGrayOld t.rsync)
    (hwsync : ChainInv s.build s.pushed s.pushedGray t.pushedGrayOld t.wsync)
    (hviewP : viewLag s.build s.popped t.rsync ≤ viewLag s.build s.popped s.rsync)
    (hviewC : viewLag s.build s.pushed t.wsync ≤ viewLag s.build s.pushed s.wsync) : BlockInv t := by
  obtain ⟨-, -, hboundP, hboundC⟩ := h.crossing hr hk
  have hlive := (h.runningInv hr).2
  obtain ⟨hl, hm, hp, hq, -⟩ := h
  have hcounters : CountersInv t := by
    rw [ht]
    refine (countersInv_async_iff ?_ ?_ ?_ ?_).mpr ⟨hrsync, hwsync, (Nat.add_le_add_left hviewP _).trans hboundP,
      hviewC.trans hboundC⟩
    exacts [hl, hk, hp, hq]
  rw [ht] at hcounters ⊢
  exact blockInv_of_running hl hm hp hq hr ⟨hcounters, hlive⟩

/-- A capturing edge keeps the invariant. -/
theorem BlockInv.capture (h : BlockInv s) (hr : Running s) (d : Domain) (late : Bool) :
    BlockInv (capture d late s) := by
  cases hk : s.build.clocking with
  | sync => simpa [Machine.capture, hk] using h
  | async =>
    obtain ⟨hrsync, hwsync, -⟩ := h.crossing hr hk
    have hinv := h
    obtain ⟨hl, -, hp, hq, -⟩ := h
    cases d with
    | producer =>
      have hx : sampled .producer late s = s.poppedGray ∨ sampled .producer late s = s.poppedGrayOld := by
        cases late <;> simp [sampled]
      simp only [Machine.capture, hk]
      exact hinv.of_crossing hr hk rfl (hrsync.capture hl hk hq hx) hwsync (hrsync.viewLag_capture hl hk hq hx)
        (Nat.le_refl _)
    | consumer =>
      have hx : sampled .consumer late s = s.pushedGray ∨ sampled .consumer late s = s.pushedGrayOld := by
        cases late <;> simp [sampled]
      simp only [Machine.capture, hk]
      exact hinv.of_crossing hr hk rfl hrsync (hwsync.capture hl hk hp hx) (Nat.le_refl _)
        (hwsync.viewLag_capture hl hk hp hx)

/-- A sync step keeps the invariant. -/
theorem BlockInv.syncBy (h : BlockInv s) (hr : Running s) (hk : s.build.clocking = .async) {d : Domain} {k : Nat}
    (hs : syncBy d k s = .next t) : BlockInv t := by
  obtain ⟨hrsync, hwsync, -⟩ := h.crossing hr hk
  have hinv := h
  obtain ⟨hl, -⟩ := h
  cases d with
  | producer =>
    have hx : advance s.cap s.poppedSeenP k < 2 * s.cap := advance_lt (seen_lt hl hk hrsync) k
    simp only [Machine.syncBy] at hs
    split at hs
    · rw [← Host.Outcome.next.inj hs]
      exact hinv.of_crossing hr hk rfl (hrsync.catchUp hl hk hx) hwsync (hrsync.viewLag_catchUp hl hk hx)
        (Nat.le_refl _)
    · simp at hs
  | consumer =>
    have hx : advance s.cap s.pushedSeenC k < 2 * s.cap := advance_lt (seen_lt hl hk hwsync) k
    simp only [Machine.syncBy] at hs
    split at hs
    · rw [← Host.Outcome.next.inj hs]
      exact hinv.of_crossing hr hk rfl hrsync (hwsync.catchUp hl hk hx) (Nat.le_refl _)
        (hwsync.viewLag_catchUp hl hk hx)
    · simp at hs

end Sys2Proof.Machine
end

section
/-! SUPPORT. What the reset input keeps of the block invariant (R36, R180, R181): the lines, the edges under `rst`, and
the state between the two domains' edges. -/

namespace Sys2Proof.Machine

variable {s t : State}

/-! ### Both domains at their reset values -/

theorem ResetLine.eq_asserted_true {l : ResetLine} (h : l ≠ .released) (hseen : l ≠ .asserted false) :
    l = .asserted true := by
  cases l with
  | released => exact absurd rfl h
  | asserted seen => cases seen <;> simp_all

/-- Where the lines agree in SYNC mode, lines that differ are of an ASYNC build. -/
theorem async_of_lines_ne (hk : s.build.clocking = .sync → s.rstP = s.rstC) (hne : s.rstP ≠ s.rstC) :
    s.build.clocking = .async := by
  cases hc : s.build.clocking with
  | sync => exact absurd (hk hc) hne
  | async => rfl

/-- With both domains at their reset values the invariant asks only that no line that is alone asserted is without its
edge, and that in SYNC mode the lines agree. -/
theorem blockInv_of_reset (hl : s.build.legal = true) (hp : ProducerSideReset s) (hc : ConsumerSideReset s)
    (h1 : s.rstP = .released → s.rstC ≠ .asserted false) (h2 : s.rstC = .released → s.rstP ≠ .asserted false)
    (hk : s.build.clocking = .sync → s.rstP = s.rstC) : BlockInv s := by
  have hcap : 0 < 2 * s.cap := Nat.mul_pos two_pos (legal_facts hl).1
  have hrun := runningInv_of_reset hp hc
  have hmid := midReset_of_reset (s := s) hl
  refine ⟨hl, by rw [hp.1]; rfl, by rw [hp.2.1]; exact hcap, by rw [hc.1]; exact hcap, fun _ => hrun, fun _ => hp,
    fun _ => hc, fun hr hne => ⟨ResetLine.eq_asserted_true hne (h1 hr), hp⟩,
    fun hr hne => ⟨ResetLine.eq_asserted_true hne (h2 hr), hc⟩, fun _ _ => hrun,
    fun hP hC => hmid (async_of_lines_ne hk (by rw [hP, hC]; simp)) (.inl ⟨hP, hC⟩) hp hc,
    fun hP hC => hmid (async_of_lines_ne hk (by rw [hP, hC]; simp)) (.inr ⟨hP, hC⟩) hp hc, hk⟩

/-- While one domain only is out of reset, both are at their reset values, the lines differ in ASYNC mode only, and the
asserted one has had its edge (R181). -/
theorem BlockInv.half_reset (h : BlockInv s) (hr : ¬ Running s) (ho : s.rstP = .released ∨ s.rstC = .released) :
    ProducerSideReset s ∧ ConsumerSideReset s ∧ s.build.clocking = .async
      ∧ (s.rstP = .asserted true ∨ s.rstC = .asserted true) := by
  obtain ⟨-, -, -, -, -, hp, hc, hhalfP, hhalfC, -, -, -, hk⟩ := h
  rcases ho with hP | hC
  · have hne : s.rstC ≠ .released := fun hC => hr ⟨hP, hC⟩
    obtain ⟨hC, hreset⟩ := hhalfP hP hne
    exact ⟨hreset, hc hC, async_of_lines_ne hk (by rw [hP]; exact hne.symm), .inr hC⟩
  · have hne : s.rstP ≠ .released := fun hP => hr ⟨hP, hC⟩
    obtain ⟨hP, hreset⟩ := hhalfC hC hne
    exact ⟨hp hP, hreset, async_of_lines_ne hk (by rw [hC]; exact hne), .inl hP⟩

theorem resetProducerSide_reset (s : State) : ProducerSideReset (resetProducerSide s) :=
  ⟨rfl, rfl, rfl, rfl, rfl, rfl, rfl⟩

theorem resetConsumerSide_reset (s : State) : ConsumerSideReset (resetConsumerSide s) := ⟨rfl, rfl, rfl, rfl⟩

/-- A further edge under `rst` changes nothing in a domain that has had one. -/
theorem resetProducerSide_of_reset (h : ProducerSideReset s) (hP : s.rstP = .asserted true) :
    resetProducerSide s = s := by
  obtain ⟨h1, h2, h3, h4, h5, h6, h7⟩ := h
  cases s
  simp_all [resetProducerSide]

theorem resetConsumerSide_of_reset (h : ConsumerSideReset s) (hC : s.rstC = .asserted true) :
    resetConsumerSide s = s := by
  obtain ⟨h1, h2, h3, h4⟩ := h
  cases s
  simp_all [resetConsumerSide]

/-- A chain at its reset value captures it again. -/
theorem replicate_capture (n : Nat) (hn : 1 ≤ n) : 0 :: (List.replicate n 0).dropLast = List.replicate n 0 := by
  rw [List.dropLast_replicate, ← List.replicate_succ, Nat.sub_add_cancel hn]

/-- A capturing edge changes nothing with both domains at their reset values. -/
theorem capture_of_reset (hl : s.build.legal = true) (hp : ProducerSideReset s) (hc : ConsumerSideReset s) (d : Domain)
    (late : Bool) : capture d late s = s := by
  have hchain : 0 :: (List.replicate s.build.nSync 0).dropLast = List.replicate s.build.nSync 0 :=
    replicate_capture _ (Nat.le_of_succ_le (legal_facts hl).2.1)
  obtain ⟨-, -, hpg, hpo, hrsync, -⟩ := hp
  obtain ⟨-, hqg, hqo, hwsync⟩ := hc
  cases hk : s.build.clocking <;> cases d <;> cases late <;> cases s <;> simp_all [capture, sampled]

/-! ### An edge under `rst` -/

@[simp] theorem resetProducerSide_rstP (s : State) : (resetProducerSide s).rstP = .asserted true := rfl
@[simp] theorem resetConsumerSide_rstC (s : State) : (resetConsumerSide s).rstC = .asserted true := rfl

/-- The producer domain's first edge of an ASYNC reset leaves the consumer domain as it was (R181). -/
theorem midReset_resetProducerSide (h : BlockInv s) (hrun : RunningInv s) (hk : s.build.clocking = .async)
    (hC : s.rstC = .asserted false) : midReset (resetProducerSide s) = true := by
  obtain ⟨hl, -, hp, hq, -⟩ := h
  obtain ⟨hrsync, hwsync, hviewP, hviewC⟩ := (countersInv_async_iff hl hk hp hq).mp hrun.1
  have hbefore : CountersInv (beforeProducerReset s.pushed (resetProducerSide s)) := by
    refine (countersInv_async_iff ?_ ?_ ?_ ?_).mpr ⟨hrsync.refill, hwsync.settle hl hk hp,
      (Nat.add_le_add_left (hrsync.viewLag_refill hl) _).trans hviewP, hviewC⟩
    exacts [hl, hk, hp, hq]
  simp only [midReset, resetProducerSide_build, hk, resetProducerSide_rstP, resetProducerSide_rstC, hC]
  exact decide_eq_true ⟨resetProducerSide_reset s, hq, s.pushed, hp, hbefore⟩

/-- The consumer domain's first edge of an ASYNC reset leaves the producer domain and the slots as they were (R181). -/
theorem midReset_resetConsumerSide (h : BlockInv s) (hrun : RunningInv s) (hk : s.build.clocking = .async)
    (hP : s.rstP = .asserted false) : midReset (resetConsumerSide s) = true := by
  obtain ⟨hl, hm, hp, hq, -⟩ := h
  obtain ⟨hcounters, hlive⟩ := hrun
  obtain ⟨hrsync, hwsync, hviewP, hviewC⟩ := (countersInv_async_iff hl hk hp hq).mp hcounters
  have hbefore : CountersInv (beforeConsumerReset s.popped (resetConsumerSide s)) := by
    refine (countersInv_async_iff ?_ ?_ ?_ ?_).mpr ⟨hrsync.settle hl hk hq, hwsync.refill, hviewP,
      (hwsync.viewLag_refill hl).trans hviewC⟩
    exacts [hl, hk, hp, hq]
  simp only [midReset, resetConsumerSide_build, hk, resetConsumerSide_rstP, resetConsumerSide_rstC, hP]
  exact decide_eq_true ⟨resetConsumerSide_reset s, hp, hm, s.popped, hq, hbefore, hlive⟩

/-- An edge of the producer domain under an ASYNC reset keeps the invariant. -/
theorem BlockInv.resetProducerSide (h : BlockInv s) (hk : s.build.clocking = .async) (hP : s.rstP ≠ .released) :
    BlockInv (resetProducerSide s) := by
  have hinv := h
  obtain ⟨hl, -, -, hq, -, hp, hc, -, hhalf, hnone, -⟩ := h
  have hreset := resetProducerSide_reset s
  have hsync : s.build.clocking ≠ .sync := by simp [hk]
  cases hC : s.rstC with
  | released =>
    exact blockInv_of_reset hl hreset (hhalf hC hP).2 (by simp) (by simp) (fun hs => absurd hs hsync)
  | asserted seen =>
    cases seen with
    | true => exact blockInv_of_reset hl hreset (hc hC) (by simp) (by simp) (fun hs => absurd hs hsync)
    | false =>
      cases hP' : s.rstP with
      | released => exact absurd hP' hP
      | asserted seen =>
        cases seen with
        | true => rwa [resetProducerSide_of_reset (hp hP') hP']
        | false =>
          have hmid := midReset_resetProducerSide hinv (hnone hP' hC) hk hC
          have hcap : 0 < 2 * s.cap := Nat.mul_pos two_pos (legal_facts hl).1
          exact ⟨hl, rfl, hcap, hq, by simp [Running], fun _ => hreset, by simp [hC], by simp, by simp [hC], by simp,
            fun _ _ => hmid, by simp, fun hs => absurd hs hsync⟩

/-- An edge of the consumer domain under an ASYNC reset keeps the invariant. -/
theorem BlockInv.resetConsumerSide (h : BlockInv s) (hk : s.build.clocking = .async) (hC : s.rstC ≠ .released) :
    BlockInv (resetConsumerSide s) := by
  have hinv := h
  obtain ⟨hl, hm, hpush, -, -, hp, hc, hhalf, -, hnone, -⟩ := h
  have hreset := resetConsumerSide_reset s
  have hsync : s.build.clocking ≠ .sync := by simp [hk]
  cases hP : s.rstP with
  | released =>
    exact blockInv_of_reset hl (hhalf hP hC).2 hreset (by simp) (by simp) (fun hs => absurd hs hsync)
  | asserted seen =>
    cases seen with
    | true => exact blockInv_of_reset hl (hp hP) hreset (by simp) (by simp) (fun hs => absurd hs hsync)
    | false =>
      cases hC' : s.rstC with
      | released => exact absurd hC' hC
      | asserted seen =>
        cases seen with
        | true => rwa [resetConsumerSide_of_reset (hc hC') hC']
        | false =>
          have hmid := midReset_resetConsumerSide hinv (hnone hP hC') hk hP
          have hcap : 0 < 2 * s.cap := Nat.mul_pos two_pos (legal_facts hl).1
          exact ⟨hl, hm, hpush, hcap, by simp [Running], by simp [hP], fun _ => hreset, by simp [hP], by simp, by simp,
            by simp, fun _ _ => hmid, fun hs => absurd hs hsync⟩

/-- In SYNC mode there is one clock: an edge under `rst` resets both domains. -/
theorem resetEdge_sync (hk : s.build.clocking = .sync) (d : Domain) :
    resetEdge d s = resetConsumerSide (resetProducerSide s) := by
  cases d <;> simp [resetEdge, hk]

/-- An edge of a domain that is under `rst` keeps the invariant. -/
theorem BlockInv.resetEdge (h : BlockInv s) (d : Domain) (hd : resetLineOf d s ≠ .released) :
    BlockInv (resetEdge d s) := by
  cases hk : s.build.clocking with
  | sync =>
    rw [resetEdge_sync hk]
    exact blockInv_of_reset h.1 (resetProducerSide_reset s) (resetConsumerSide_reset _) (by simp) (by simp) (by simp)
  | async =>
    cases d with
    | producer => simpa only [Machine.resetEdge, hk] using h.resetProducerSide hk hd
    | consumer => simpa only [Machine.resetEdge, hk] using h.resetConsumerSide hk hd

/-! ### The lines -/

theorem ResetLine.assert_ne_released (l : ResetLine) : l.assert ≠ .released := by
  cases l <;> simp [ResetLine.assert]

theorem ResetLine.assert_of_ne_released {l : ResetLine} (h : l ≠ .released) : l.assert = l := by
  cases l with
  | released => exact absurd rfl h
  | asserted seen => rfl

/-- Asserting `rst` keeps the invariant. -/
theorem BlockInv.assertReset (h : BlockInv s) : BlockInv (assertReset s) := by
  by_cases hr : Running s
  · have hrun := h.runningInv hr
    obtain ⟨hl, hm, hp, hq, -⟩ := h
    have hP : (Machine.assertReset s).rstP = .asserted false := by simp [Machine.assertReset, hr.1, ResetLine.assert]
    have hC : (Machine.assertReset s).rstC = .asserted false := by simp [Machine.assertReset, hr.2, ResetLine.assert]
    exact ⟨hl, hm, hp, hq, by simp [Running, hP], by simp [hP], by simp [hC], by simp [hP], by simp [hC],
      fun _ _ => hrun, by simp [hP], by simp [hC], by simp [hP, hC]⟩
  · by_cases ho : s.rstP = .released ∨ s.rstC = .released
    · obtain ⟨hp, hc, hk, -⟩ := h.half_reset hr ho
      exact blockInv_of_reset h.1 hp hc (fun hP => absurd hP (ResetLine.assert_ne_released _))
        (fun hC => absurd hC (ResetLine.assert_ne_released _)) (fun hs => by simp [hk] at hs)
    · obtain ⟨hP, hC⟩ := not_or.mp ho
      rwa [Machine.assertReset, ResetLine.assert_of_ne_released hP, ResetLine.assert_of_ne_released hC]

theorem ResetLine.mayRelease_iff {l : ResetLine} : l.mayRelease = true ↔ l ≠ .asserted false := by
  cases l <;> simp [ResetLine.mayRelease]

/-- Where `rst` may be released and is not, both domains are at their reset values (R181). -/
theorem BlockInv.reset_of_mayRelease (h : BlockInv s) (hr : ¬ Running s) (hP : s.rstP ≠ .asserted false)
    (hC : s.rstC ≠ .asserted false) : ProducerSideReset s ∧ ConsumerSideReset s := by
  by_cases ho : s.rstP = .released ∨ s.rstC = .released
  · obtain ⟨hp, hc, -⟩ := h.half_reset hr ho
    exact ⟨hp, hc⟩
  · obtain ⟨-, -, -, -, -, hp, hc, -⟩ := h
    obtain ⟨hP', hC'⟩ := not_or.mp ho
    exact ⟨hp (ResetLine.eq_asserted_true hP' hP), hc (ResetLine.eq_asserted_true hC' hC)⟩

/-- In SYNC mode a release acts on both lines (R180). -/
theorem releaseReset_sync {d : Domain} (hk : s.build.clocking = .sync) (h : releaseReset d s = .next t) :
    t.rstP = t.rstC := by
  unfold releaseReset at h
  simp only [hk] at h
  split at h
  · rw [← Host.Outcome.next.inj h]
  · simp at h

/-- Releasing `rst` keeps the invariant. -/
theorem BlockInv.releaseReset (h : BlockInv s) {d : Domain} (hs : releaseReset d s = .next t) : BlockInv t := by
  obtain ⟨hmayP, hmayC, ht, hlineP, hlineC⟩ := releaseReset_next hs
  have hP := ResetLine.mayRelease_iff.mp hmayP
  have hC := ResetLine.mayRelease_iff.mp hmayC
  by_cases hr : Running s
  · have htP : t.rstP = s.rstP := by rw [hr.1] at hlineP ⊢; exact hlineP.elim id id
    have htC : t.rstC = s.rstC := by rw [hr.2] at hlineC ⊢; exact hlineC.elim id id
    rwa [ht, htP, htC]
  · obtain ⟨hp, hc⟩ := h.reset_of_mayRelease hr hP hC
    have hsync : s.build.clocking = .sync → t.rstP = t.rstC := fun hk => releaseReset_sync hk hs
    have htP : t.rstP ≠ .asserted false := by rcases hlineP with hl | hl <;> rw [hl] <;> simp [hP]
    have htC : t.rstC ≠ .asserted false := by rcases hlineC with hl | hl <;> rw [hl] <;> simp [hC]
    rw [ht]
    exact blockInv_of_reset h.1 hp hc (fun _ => htC) (fun _ => htP) hsync

end Sys2Proof.Machine
end

section
/-! SUPPORT. Every input keeps the block invariant, and none ends in a fault from a state that meets it. -/

namespace Sys2Proof.Machine

variable {s t u x : State}

/-! ### Every input keeps the block invariant -/

/-- R141: a stamped frame is an element of the ring's width. -/
theorem stampedElement_lt {f : Nat} (hl : s.build.legal = true) (hi : s.build.hasPort .ingest = true)
    (hf : f < 2 ^ s.build.frameWidth) (stamp : Word32) : stampedElement f stamp < 2 ^ s.build.width := by
  have hwidth : s.build.width = s.build.frameWidth + 32 := by
    have := (legal_facts hl).2.2.2 hi
    unfold Build.frameWidth
    omega
  have hstamp : stamp.toNat < 2 ^ 32 := stamp.isLt
  rw [hwidth, Nat.pow_add, stampedElement, concatBits]
  calc f * 2 ^ 32 + stamp.toNat < (f + 1) * 2 ^ 32 := by omega
    _ ≤ 2 ^ s.build.frameWidth * 2 ^ 32 := Nat.mul_le_mul_right _ hf

/-- An operation keeps the invariant, out of reset. -/
theorem BlockInv.exec_running (h : BlockInv s) (hr : Running s) {i : Instr} (he : exec i s = .next t) :
    BlockInv t := by
  obtain ⟨⟨hl, hp, -⟩, -⟩ := exec_next_ready hr he
  rcases exec_cases hr he with ⟨st, d, rfl, -⟩ | ⟨v, rfl, hv, hc, rfl⟩ | ⟨e, rfl, hc, -, rfl⟩ | ⟨f, rfl, -, rfl⟩
    | ⟨f, rfl, hf, hc, rfl⟩
  · exact blockInv_respond.mpr h
  · exact blockInv_respond.mpr (h.store hr hc hv)
  · exact blockInv_respond.mpr (h.take hr hc)
  · exact blockInv_respond.mpr (h.setEvents hr _ _)
  · exact blockInv_respond.mpr
      ((h.setEvents hr (s.seq + 1) s.dropCount).store hr hc (stampedElement_lt hl hp hf _))

/-- An operation keeps the invariant, in reset as out of it. -/
theorem BlockInv.exec (h : BlockInv s) {i : Instr} (he : exec i s = .next t) : BlockInv t := by
  rcases exec_next he with hr | ⟨hP, hC, rfl⟩
  · exact h.exec_running hr he
  · have hline : resetLineOf (domainOf i.port) s ≠ .released := by
      cases domainOf i.port
      · exact hP
      · exact hC
    exact blockInv_respondUnspecified.mpr (h.resetEdge _ hline)

/-- An edge with no request keeps the invariant. -/
theorem BlockInv.idleEdge (h : BlockInv s) {d : Domain} {late : Bool} (he : idleEdge d late s = .next t) :
    BlockInv t := by
  obtain ⟨hl, ⟨hd, rfl⟩ | ⟨hd, rfl⟩⟩ := idleEdge_next he
  · exact blockInv_respondUnspecified.mpr (h.resetEdge d hd)
  · by_cases hr : Running s
    · exact (blockInv_respond.mpr h).capture hr d late
    · have ho : s.rstP = .released ∨ s.rstC = .released := by
        cases d
        · exact .inl hd
        · exact .inr hd
      obtain ⟨hp, hc, -⟩ := h.half_reset hr ho
      rw [capture_of_reset (s := respond _ _ _ _ s) hl hp hc]
      exact h

/-- A clock edge keeps the invariant. -/
theorem BlockInv.runEdge (h : BlockInv s) {d : Domain} {bits : Option Nat} {late : Bool}
    (he : runEdge d bits late s = .next t) : BlockInv t := by
  rcases runEdge_next he with ⟨-, he⟩ | ⟨i, u, -, hu, rfl⟩
  · exact h.idleEdge he
  · have hinv := h.exec hu
    split
    · rename_i hd
      rcases exec_next hu with hr | ⟨hP, hC, -⟩
      · exact hinv.capture (exec_surroundings hr hu).2.1 d late
      · cases d
        · exact absurd hd hP
        · exact absurd hd hC
    · exact hinv

/-- What a consumer operation does to `popped` out of reset: nothing, or one step where the consumer's view admits
it. -/
theorem exec_consumer_popped {j : Instr} (hr : Running s) (hj : j.port = .consumer) (he : exec j s = .next x) :
    x.popped = s.popped ∨ s.cCount ≠ 0 ∧ x.popped = inc s.cap s.popped := by
  rcases exec_cases hr he with ⟨st, d, rfl, -⟩ | ⟨v, rfl, -⟩ | ⟨e, -, hc, -, rfl⟩ | ⟨f, rfl, -⟩ | ⟨f, rfl, -⟩
  · exact .inl rfl
  · simp [Instr.port] at hj
  · exact .inr ⟨hc, by simp⟩
  · simp [Instr.port] at hj
  · simp [Instr.port] at hj

/-- What an operation of another port does to `popped` out of reset, and to the occupancy as that port leaves it. -/
theorem exec_other_popped {i : Instr} (h : BlockInv s) (hr : Running s) (hi : i.port ≠ .consumer)
    (he : exec i s = .next u) : u.popped = s.popped ∧ s.occupancy ≤ u.occupancy := by
  rcases exec_cases hr he with ⟨st, d, rfl, -⟩ | ⟨v, -, -, hc, rfl⟩ | ⟨e, rfl, -⟩ | ⟨f, -, -, rfl⟩ | ⟨f, -, -, hc, rfl⟩
  · exact ⟨rfl, Nat.le_refl _⟩
  · exact ⟨by simp, by rw [respond_occupancy, store_occupancy h hr hc]; omega⟩
  · exact absurd rfl hi
  · exact ⟨rfl, Nat.le_refl _⟩
  · exact ⟨by simp, by
      rw [respond_occupancy, store_occupancy (h.setEvents hr (s.seq + 1) s.dropCount) hr hc]
      exact Nat.le_succ _⟩

/-- In SYNC mode a take changes `popped` alone. -/
theorem take_sync (hk : s.build.clocking = .sync) : s.take = { s with popped := inc s.cap s.popped } :=
  setPopped_sync _ hk

theorem portOf_producer_ne_consumer (b : Build) : portOf b .producer ≠ .consumer := by
  cases hi : b.ingestPresent <;> simp [portOf, hi]

/-- The merged state of a SYNC cycle is the producer side's but for `popped` and the responses. -/
theorem blockInv_mergeCycle : BlockInv (mergeCycle u x) ↔ BlockInv { u with popped := x.popped } := Iff.rfl

/-- Two requests in one SYNC cycle keep the invariant: the merged state is that of the producer side's operation, with
the take of the consumer's after it (R57). -/
theorem BlockInv.runSameCycle (h : BlockInv s) {v w : Nat} (he : runSameCycle v w s = .next t) : BlockInv t := by
  obtain ⟨hk, i, j, u, x, hi, hj, hu, hx, rfl⟩ := runSameCycle_next he
  have hinv := h.exec hu
  rw [blockInv_mergeCycle]
  rcases exec_next hu with hr | ⟨hP, -, rfl⟩
  · obtain ⟨hbuild, hru, -⟩ := exec_surroundings hr hu
    obtain ⟨hsame, hocc⟩ := exec_other_popped h hr (hi ▸ portOf_producer_ne_consumer _) hu
    have hcap : u.cap = s.cap := congrArg Build.capacity hbuild
    rcases exec_consumer_popped hr hj hx with hpop | ⟨hc, hpop⟩
    · rwa [hpop, ← hsame]
    · have hadmit : u.cCount ≠ 0 := by
        have hcount := (sync_counts hk).2
        have hcount' := (sync_counts (hbuild ▸ hk)).2
        omega
      rw [hpop, ← hsame, ← hcap, ← take_sync (hbuild ▸ hk)]
      exact hinv.take hru hadmit
  · rcases exec_next hx with hr | ⟨-, -, rfl⟩
    · exact absurd hr.1 hP
    · rw [resetEdge_sync hk] at hinv ⊢
      rw [resetEdge_sync hk]
      exact hinv

/-- A step of an agent keeps the invariant. -/
theorem BlockInv.agentStep (h : BlockInv s) {k : Nat} (he : agentStep k s = .next t) : BlockInv t := by
  rcases agentStep_next he with rfl | ⟨a, rfl⟩ | ⟨i, u, a, hu, rfl⟩
  · exact h
  · exact blockInv_setAgent.mpr h
  · exact blockInv_setAgent.mpr (h.exec hu)

/-- A sync step keeps the invariant. -/
theorem BlockInv.syncStep (h : BlockInv s) {d : Domain} {k : Nat} (he : syncStep d k s = .next t) : BlockInv t := by
  obtain ⟨-, hk, hr, -, hs⟩ := syncStep_next he
  exact h.syncBy hr hk hs

/-- The effect of every input keeps the invariant. -/
theorem BlockInv.effect (h : BlockInv s) {e : Input} (he : e.effect s = .next t) : BlockInv t := by
  cases e with
  | request p bits =>
    obtain ⟨i, -, hi⟩ := runRequest_next he
    exact h.exec hi
  | sameCycle v w => exact h.runSameCycle he
  | edge d bits late => exact h.runEdge he
  | agent k => exact h.agentStep he
  | sync d k => exact h.syncStep he
  | rstAssert =>
    cases he
    exact h.assertReset
  | rstRelease d => exact h.releaseReset he

/-! ### Where an operation stops out of reset -/

/-- A POP or PEEK that the consumer's view admits on a head slot without a value (93 entry I1). -/
def ReadsUnwritten (i : Instr) (s : State) : Prop := (i = .pop ∨ i = .peek) ∧ s.cCount ≠ 0 ∧ s.head = none

theorem exec_readsUnwritten {i : Instr} (hd : Ready i.port s) (h : ReadsUnwritten i s) :
    exec i s = .fault .slotUnwritten := by
  obtain ⟨rfl | rfl, hc, hnone⟩ := h
  · rw [exec_pop hd, if_neg hc, hnone]
  · rw [exec_peek hd, if_neg hc, hnone]

theorem exec_operandTooWide {i : Instr} (hl : s.build.legal = true) (hp : s.build.hasPort i.port = true)
    (hf : i.fits s.build = false) : exec i s = .refused .operandTooWide := by
  obtain ⟨op, hop⟩ := exec_eq_operate i s
  simp [hop, operate, hl, hp, hf]

/-- An operation that fits its port ends in the fault of a state the spec gives no step. -/
theorem exec_stateFault {i : Instr} {f : Fault} (hl : s.build.legal = true) (hw : i.wellFormed s.build = true)
    (hf : stateFault s = some f) : exec i s = .fault f := by
  obtain ⟨hp, hfit⟩ : s.build.hasPort i.port = true ∧ i.fits s.build = true := by simpa [Instr.wellFormed] using hw
  obtain ⟨op, hop⟩ := exec_eq_operate i s
  simp [hop, operate, hl, hp, hfit, hf]

/-- On a ready port every operation that fits it answers a next state, but for the read of an unwritten slot. -/
theorem exec_completes {i : Instr} (hd : Ready i.port s) (hf : i.fits s.build = true) (h : ¬ ReadsUnwritten i s) :
    ∃ t, exec i s = .next t := by
  have hhead : i = .pop ∨ i = .peek → s.cCount ≠ 0 → ∃ e, s.head = some e := fun hi hc =>
    Option.ne_none_iff_exists'.mp fun hnone => h ⟨hi, hc, hnone⟩
  cases i with
  | nopP v => exact ⟨_, exec_nopP hd (of_decide_eq_true hf)⟩
  | push v => rw [exec_push hd (of_decide_eq_true hf)]; split <;> exact ⟨_, rfl⟩
  | pendingP v => exact ⟨_, exec_pendingP hd (of_decide_eq_true hf)⟩
  | illegalP v => exact ⟨_, exec_illegalP hd (of_decide_eq_true hf)⟩
  | nopC => exact ⟨_, exec_nopC hd⟩
  | pop =>
    rw [exec_pop hd]
    split
    · exact ⟨_, rfl⟩
    · obtain ⟨e, he⟩ := hhead (.inl rfl) (by assumption)
      exact ⟨_, by rw [he]⟩
  | peek =>
    rw [exec_peek hd]
    split
    · exact ⟨_, rfl⟩
    · obtain ⟨e, he⟩ := hhead (.inr rfl) (by assumption)
      exact ⟨_, by rw [he]⟩
  | pendingC => exact ⟨_, exec_pendingC hd⟩
  | nopI m f => exact ⟨_, exec_nopI hd (of_decide_eq_true hf)⟩
  | ingest m f =>
    cases m with
    | false => exact ⟨_, exec_ingest_none hd (of_decide_eq_true hf)⟩
    | true => rw [exec_ingest hd (of_decide_eq_true hf)]; split <;> exact ⟨_, rfl⟩

/-! ### No input faults from a state that meets the invariant -/

/-- A result that is no fault. -/
def NoFault (r : Result) : Prop := ∀ f : Fault, r ≠ .fault f

theorem noFault_next (s : State) : NoFault (.next s) := fun _ => by simp

theorem noFault_refused (r : Refusal) : NoFault (.refused r) := fun _ => by simp

theorem noFault_guarded {r : Result} (hf : stateFault s = none) (h : NoFault r) : NoFault (guarded s r) := by
  unfold guarded
  split
  · exact noFault_refused _
  · rwa [hf]

theorem noFault_composed {r : Result} (hf : stateFault s = none) (h : NoFault r) : NoFault (composed s r) := by
  unfold composed
  split
  · exact noFault_refused _
  · exact noFault_guarded hf h

theorem noFault_fromOutside {p : Port} {r : Result} (h : NoFault r) : NoFault (fromOutside p s r) := by
  unfold fromOutside
  split
  · exact noFault_refused _
  · exact h

/-- Under `rst` an operation is ignored or refused. -/
theorem noFault_operate_not_running {i : Instr} {op : State → Result} (hf : stateFault s = none) (hr : ¬ Running s) :
    NoFault (operate i s op) := by
  unfold operate
  split
  · exact noFault_refused _
  split
  · exact noFault_refused _
  split
  · exact noFault_refused _
  simp only [hf]
  split
  · exact absurd ⟨by assumption, by assumption⟩ hr
  · exact noFault_next _
  · exact noFault_refused _
  · exact noFault_refused _

theorem noFault_exec (h : BlockInv s) (i : Instr) : NoFault (exec i s) := by
  by_cases hr : Running s
  · have hunwritten : ¬ ReadsUnwritten i s := by
      rintro ⟨-, hc, hnone⟩
      obtain ⟨e, hhead, -⟩ := contents_take h hr hc
      simp [hnone] at hhead
    by_cases hp : s.build.hasPort i.port = true
    · by_cases hf : i.fits s.build = true
      · obtain ⟨t, ht⟩ := exec_completes ⟨h.1, hp, hr, ringFault_none_of_inv h hr⟩ hf hunwritten
        exact ht ▸ noFault_next t
      · exact exec_operandTooWide h.1 hp (Bool.eq_false_iff.mpr hf) ▸ noFault_refused _
    · exact exec_portAbsent h.1 (Bool.eq_false_iff.mpr hp) ▸ noFault_refused _
  · obtain ⟨op, hop⟩ := exec_eq_operate i s
    exact hop ▸ noFault_operate_not_running (stateFault_none_of_inv h) hr

theorem noFault_runRequest (h : BlockInv s) (p : Port) (bits : Nat) : NoFault (runRequest p bits s) := by
  unfold runRequest
  split
  · exact noFault_exec h _
  · exact noFault_refused _
  · exact noFault_refused _

theorem noFault_runSameCycle (h : BlockInv s) (v w : Nat) : NoFault (runSameCycle v w s) := by
  have hv := noFault_runRequest h (portOf s.build .producer) v
  have hw := noFault_runRequest h .consumer w
  unfold runSameCycle
  split
  · exact noFault_refused _
  · split
    · exact noFault_next _
    · exact absurd (by assumption) (hw _)
    · exact noFault_refused _
    · exact absurd (by assumption) (hv _)
    · exact noFault_refused _

theorem noFault_runEdge (h : BlockInv s) (d : Domain) (bits : Option Nat) (late : Bool) :
    NoFault (runEdge d bits late s) := by
  unfold runEdge
  split
  · refine noFault_guarded (stateFault_none_of_inv h) ?_
    split <;> exact noFault_next _
  · split
    · exact noFault_next _
    · exact absurd (by assumption) (noFault_runRequest h _ _ _)
    · exact noFault_refused _

theorem noFault_agentStep (h : BlockInv s) (k : Nat) : NoFault (agentStep k s) := by
  unfold agentStep
  split
  · exact noFault_refused _
  split
  · exact noFault_refused _
  split
  · exact noFault_next _
  split
  · exact noFault_next _
  · split
    · exact noFault_next _
    · exact absurd (by assumption) (noFault_exec h _ _)
    · exact noFault_refused _
  · exact noFault_next _

theorem noFault_syncStep (h : BlockInv s) (d : Domain) (k : Nat) : NoFault (syncStep d k s) := by
  refine noFault_guarded (stateFault_none_of_inv h) ?_
  split
  · exact noFault_refused _
  split
  · cases d
    all_goals
      simp only [syncBy]
      split
      · exact noFault_next _
      · exact noFault_refused _
  · exact noFault_refused _

theorem noFault_releaseReset (d : Domain) : NoFault (releaseReset d s) := by
  unfold releaseReset
  split
  · split <;> exact noFault_next _
  · exact noFault_refused _

theorem noFault_takeInput (h : BlockInv s) (e : Input) : NoFault (takeInput e s) := by
  refine noFault_composed (stateFault_none_of_inv h) ?_
  cases e with
  | request p bits => exact noFault_fromOutside (noFault_runRequest h p bits)
  | sameCycle v w => exact noFault_fromOutside (noFault_fromOutside (noFault_runSameCycle h v w))
  | edge d bits late =>
    cases bits with
    | none => exact noFault_runEdge h d none late
    | some bits => exact noFault_fromOutside (noFault_runEdge h d _ late)
  | agent k => exact noFault_agentStep h k
  | sync d k => exact noFault_syncStep h d k
  | rstAssert => exact noFault_next _
  | rstRelease d => exact noFault_releaseReset d

end Sys2Proof.Machine
end

section
/-! SUPPORT. What an operation leaves unchanged (R21 to R24, R30), what it does not read of the slots (R37), and a clock
edge as a step (R30, R39). -/

namespace Sys2Proof.Machine

variable {s t : State}

/-! ### Frames of storing and taking -/

theorem inc_ne_self {C x : Nat} (hC : 1 ≤ C) : inc C x ≠ x := by
  unfold inc
  split <;> omega

/-- A store with its response, in a state whose `seq` may have moved on, changes nothing else than it says. -/
theorem respond_store_frame {p : Port} {st : Status} {d : Option Elem} {v : Elem} {q : Word32}
    (ht : t = respond p st d s (State.store v { s with seq := q })) :
    t = { s with slots := t.slots, pushed := t.pushed, pushedGray := t.pushedGray, pushedGrayOld := t.pushedGrayOld
                 seq := t.seq, dropCount := t.dropCount, resp := t.resp } := by
  subst ht
  cases hk : s.build.clocking <;> simp [State.store, State.setPushed, hk, respond]

/-- A take with its response changes nothing else than it says. -/
theorem respond_take_frame {p : Port} {st : Status} {d : Option Elem} (ht : t = respond p st d s s.take) :
    t = { s with popped := t.popped, poppedGray := t.poppedGray, poppedGrayOld := t.poppedGrayOld
                 resp := t.resp } := by
  subst ht
  cases hk : s.build.clocking <;> simp [State.take, State.setPopped, hk, respond]

/-! ### Slots outside the live ones -/

theorem store_withSlots (v : Elem) (s : State) (m : Memory) :
    State.store v { s with slots := m } = { s.store v with slots := m.write (idx s.cap s.pushed) v } := by
  cases hk : s.build.clocking <;> simp [State.store, State.setPushed, hk, State.cap]

theorem take_withSlots (s : State) (m : Memory) : State.take { s with slots := m } = { s.take with slots := m } := by
  cases hk : s.build.clocking <;> simp [State.take, State.setPopped, hk, State.cap]

/-- The head that the consumer's view admits is the first element of the contents. -/
theorem head_eq_of_contents_eq {m : Memory} (h : BlockInv s) (hr : Running s) (hm : BlockInv { s with slots := m })
    (hc : contents { s with slots := m } = contents s) (hadmit : s.cCount ≠ 0) :
    State.head { s with slots := m } = s.head ∧ contents (State.take { s with slots := m }) = contents s.take := by
  obtain ⟨e, he, -, hcons⟩ := contents_take h hr hadmit
  obtain ⟨e', he', -, hcons'⟩ := contents_take hm hr hadmit
  rw [hcons, hcons'] at hc
  obtain ⟨heq, htail⟩ := List.cons.inj hc
  exact ⟨by rw [he, he', heq], htail⟩

/-- The operation answers the same from the slot store `m` as from that of `s`, but for the store, with the same
contents after it. -/
def AnswersAlike (i : Instr) (s t : State) (m : Memory) : Prop :=
  ∃ m', exec i { s with slots := m } = .next { t with slots := m' } ∧ contents { t with slots := m' } = contents t

/-- An operation that only responds, by what no slot decides, answers alike. -/
theorem answersAlike_of_respond {i : Instr} {m : Memory} {p : Port} {st : Status} {d : Option Elem}
    (hc : contents { s with slots := m } = contents s) (hs : exec i s = .next (respond p st d s s))
    (hm : exec i { s with slots := m } = .next (respond p st d { s with slots := m } { s with slots := m }))
    (he : exec i s = .next t) : AnswersAlike i s t m := by
  rw [hs] at he
  cases he
  exact ⟨m, hm, hc⟩

/-- An operation that stores in `u`, the state with its event counters moved on, answers alike. -/
theorem answersAlike_of_store {i : Instr} {m : Memory} {p : Port} {u : State} {v : Elem} (hu : BlockInv u)
    (hm : BlockInv { u with slots := m }) (hr : Running u) (hc : contents { u with slots := m } = contents u)
    (hfull : u.pCount ≠ u.cap)
    (hs : exec i { s with slots := m } = .next (respond p .ok none { s with slots := m }
      (State.store v { u with slots := m }))) : AnswersAlike i s (respond p .ok none s (u.store v)) m := by
  refine ⟨m.write (idx u.cap u.pushed) v, by rw [hs, store_withSlots]; rfl, ?_⟩
  have hstore := contents_store hm hr hfull v
  rw [store_withSlots, hc] at hstore
  exact hstore.trans (contents_store hu hr hfull v).symm

/-- R37: an operation reads no slot but the head, so that two slot stores with the same contents answer alike. -/
theorem exec_answersAlike {i : Instr} {m : Memory} (h : BlockInv s) (hr : Running s)
    (hm : BlockInv { s with slots := m }) (hc : contents { s with slots := m } = contents s) (he : exec i s = .next t) :
    AnswersAlike i s t m := by
  obtain ⟨hd, hf⟩ := exec_next_ready hr he
  have hd' : Ready i.port { s with slots := m } := hd
  cases i with
  | nopP v =>
    exact answersAlike_of_respond hc (exec_nopP hd (of_decide_eq_true hf)) (exec_nopP hd' (of_decide_eq_true hf)) he
  | push v =>
    have hs := exec_push hd (of_decide_eq_true hf)
    have hs' := exec_push hd' (of_decide_eq_true hf)
    by_cases hfull : s.pCount = s.cap
    · exact answersAlike_of_respond hc (hs.trans (if_pos hfull)) (hs'.trans (if_pos hfull)) he
    · rw [hs.trans (if_neg hfull)] at he
      cases he
      exact answersAlike_of_store h hm hr hc hfull (hs'.trans (if_neg hfull))
  | pendingP v =>
    exact answersAlike_of_respond hc (exec_pendingP hd (of_decide_eq_true hf))
      (exec_pendingP hd' (of_decide_eq_true hf)) he
  | illegalP v =>
    exact answersAlike_of_respond hc (exec_illegalP hd (of_decide_eq_true hf))
      (exec_illegalP hd' (of_decide_eq_true hf)) he
  | nopC => exact answersAlike_of_respond hc (exec_nopC hd) (exec_nopC hd') he
  | pop =>
    by_cases hempty : s.cCount = 0
    · exact answersAlike_of_respond hc ((exec_pop hd).trans (if_pos hempty)) ((exec_pop hd').trans (if_pos hempty)) he
    · obtain ⟨e, hhead, -⟩ := contents_take h hr hempty
      obtain ⟨hsame, htail⟩ := head_eq_of_contents_eq h hr hm hc hempty
      have hs := (exec_pop hd).trans (if_neg hempty)
      have hs' := (exec_pop hd').trans (if_neg hempty)
      rw [hhead] at hs
      rw [hsame, hhead] at hs'
      rw [hs] at he
      cases he
      rw [take_withSlots] at hs' htail
      exact ⟨m, hs', htail⟩
  | peek =>
    by_cases hempty : s.cCount = 0
    · exact answersAlike_of_respond hc ((exec_peek hd).trans (if_pos hempty)) ((exec_peek hd').trans (if_pos hempty)) he
    · obtain ⟨e, hhead, -⟩ := contents_take h hr hempty
      obtain ⟨hsame, -⟩ := head_eq_of_contents_eq h hr hm hc hempty
      have hs := (exec_peek hd).trans (if_neg hempty)
      have hs' := (exec_peek hd').trans (if_neg hempty)
      rw [hhead] at hs
      rw [hsame, hhead] at hs'
      exact answersAlike_of_respond hc hs hs' he
  | pendingC => exact answersAlike_of_respond hc (exec_pendingC hd) (exec_pendingC hd') he
  | nopI b f =>
    exact answersAlike_of_respond hc (exec_nopI hd (of_decide_eq_true hf)) (exec_nopI hd' (of_decide_eq_true hf)) he
  | ingest b f =>
    cases b with
    | false =>
      exact answersAlike_of_respond hc (exec_ingest_none hd (of_decide_eq_true hf))
        (exec_ingest_none hd' (of_decide_eq_true hf)) he
    | true =>
      have hs := exec_ingest hd (of_decide_eq_true hf)
      have hs' := exec_ingest hd' (of_decide_eq_true hf)
      by_cases hfull : s.pCount = s.cap
      · rw [hs.trans (if_pos hfull)] at he
        cases he
        exact ⟨m, hs'.trans (if_pos hfull), hc⟩
      · rw [hs.trans (if_neg hfull)] at he
        cases he
        exact answersAlike_of_store (u := { s with seq := s.seq + 1 }) (h.setEvents hr _ _) (hm.setEvents hr _ _) hr hc
          hfull (hs'.trans (if_neg hfull))

/-! ### The steps of a counter (R24) -/

/-- R24: from `a` to `b` by no step, one `inc`, or reset. -/
def CounterStep (s : State) (a b : Nat) : Prop :=
  b = a ∨ b = inc s.cap a ∨ b = 0 ∧ (s.rstP ≠ .released ∨ s.rstC ≠ .released)

/-- Both counters take steps of R24. -/
def CounterSteps (s t : State) : Prop := CounterStep s s.pushed t.pushed ∧ CounterStep s s.popped t.popped

theorem counterSteps_of_same (hp : t.pushed = s.pushed) (hq : t.popped = s.popped) : CounterSteps s t :=
  ⟨.inl hp, .inl hq⟩

theorem resetEdge_counterSteps (d : Domain) (h : s.rstP ≠ .released ∨ s.rstC ≠ .released) :
    CounterSteps s (resetEdge d s) := by
  unfold resetEdge
  split
  · exact ⟨.inr (.inr ⟨rfl, h⟩), .inr (.inr ⟨rfl, h⟩)⟩
  · exact ⟨.inr (.inr ⟨rfl, h⟩), .inl rfl⟩
  · exact ⟨.inl rfl, .inr (.inr ⟨rfl, h⟩)⟩

theorem exec_counterSteps {i : Instr} (he : exec i s = .next t) : CounterSteps s t := by
  rcases exec_next he with hr | ⟨hP, -, rfl⟩
  · rcases exec_cases hr he with ⟨st, d, rfl, -⟩ | ⟨v, -, -, -, rfl⟩ | ⟨e, -, -, -, rfl⟩ | ⟨f, -, -, rfl⟩
      | ⟨f, -, -, -, rfl⟩
    · exact counterSteps_of_same rfl rfl
    · exact ⟨.inr (.inl (by simp)), .inl (by simp)⟩
    · exact ⟨.inl (by simp), .inr (.inl (by simp))⟩
    · exact counterSteps_of_same rfl rfl
    · exact ⟨.inr (.inl (by simp [State.cap])), .inl (by simp)⟩
  · exact resetEdge_counterSteps _ (.inl hP)

theorem idleEdge_counterSteps {d : Domain} {late : Bool} (he : idleEdge d late s = .next t) : CounterSteps s t := by
  obtain ⟨-, ⟨hd, rfl⟩ | ⟨-, rfl⟩⟩ := idleEdge_next he
  · have hline : s.rstP ≠ .released ∨ s.rstC ≠ .released := by
      cases d
      · exact .inl hd
      · exact .inr hd
    exact resetEdge_counterSteps d hline
  · exact counterSteps_of_same (by simp) (by simp)

theorem runEdge_counterSteps {d : Domain} {bits : Option Nat} {late : Bool} (he : runEdge d bits late s = .next t) :
    CounterSteps s t := by
  rcases runEdge_next he with ⟨-, he⟩ | ⟨i, u, -, hu, rfl⟩
  · exact idleEdge_counterSteps he
  · have hsteps := exec_counterSteps hu
    split
    · simpa [CounterSteps] using hsteps
    · exact hsteps

/-- In every effect of an input the counters take steps of R24. -/
theorem effect_counterSteps {e : Input} (he : e.effect s = .next t) : CounterSteps s t := by
  cases e with
  | request p bits =>
    obtain ⟨i, -, hi⟩ := runRequest_next he
    exact exec_counterSteps hi
  | sameCycle v w =>
    obtain ⟨-, i, j, u, x, -, -, hu, hx, rfl⟩ := runSameCycle_next he
    exact ⟨(exec_counterSteps hu).1, (exec_counterSteps hx).2⟩
  | edge d bits late => exact runEdge_counterSteps he
  | agent k =>
    rcases agentStep_next he with rfl | ⟨a, rfl⟩ | ⟨i, u, a, hu, rfl⟩
    · exact counterSteps_of_same rfl rfl
    · exact counterSteps_of_same rfl rfl
    · have hsteps := exec_counterSteps hu
      exact hsteps
  | sync d k =>
    obtain ⟨-, -, -, -, hs⟩ := syncStep_next he
    rw [syncBy_next hs]
    exact counterSteps_of_same rfl rfl
  | rstAssert =>
    cases he
    exact counterSteps_of_same rfl rfl
  | rstRelease d =>
    obtain ⟨-, -, ht, -⟩ := releaseReset_next he
    rw [ht]
    exact counterSteps_of_same rfl rfl

/-! ### States the spec gives no step (R39) -/

theorem guarded_fault {r : Result} {f : Fault} (hl : s.build.legal = true) (hf : stateFault s = some f) :
    guarded s r = .fault f := by
  simp [guarded, hl, hf]

theorem composed_fault {r : Result} {f : Fault} (hd : portsDistinct s = true) (hl : s.build.legal = true)
    (hf : stateFault s = some f) : composed s r = .fault f := by
  simp [composed, hd, guarded_fault hl hf]

/-- R39: an overfull state that no reset edge leaves is the fault that names it. -/
theorem stateFault_of_overfull (hl : s.build.legal = true) (hn : ¬ AfterFirstResetEdge s) (hp : s.pushed < 2 * s.cap)
    (hq : s.popped < 2 * s.cap) (ho : s.cap < s.occupancy) : stateFault s = some .occupancyAboveCapacity := by
  have hmid : midReset s ≠ true := fun hm => hn (afterFirstResetEdge_of_midReset hl hm)
  have hrange : ¬ (2 * s.cap ≤ s.pushed ∨ 2 * s.cap ≤ s.popped) := by omega
  rw [stateFault, if_neg hmid, ringFault, if_neg hrange, if_pos ho]

/-! ### The state after reset (R36) -/

theorem replicate_zero_getLastD (n : Nat) : (List.replicate n 0).getLastD 0 = 0 := by
  cases n <;> simp [List.replicate_succ']

@[simp] theorem resetOf_poppedSeenP (b : Build) : (State.resetOf b).poppedSeenP = 0 := by
  rw [State.poppedSeenP, State.resetOf, replicate_zero_getLastD, bin_zero]

@[simp] theorem resetOf_pushedSeenC (b : Build) : (State.resetOf b).pushedSeenC = 0 := by
  rw [State.pushedSeenC, State.resetOf, replicate_zero_getLastD, bin_zero]

@[simp] theorem resetOf_pCount (b : Build) : (State.resetOf b).pCount = 0 := by
  have hview : (State.resetOf b).poppedView = 0 := by
    unfold State.poppedView
    split
    · rfl
    · exact resetOf_poppedSeenP b
  rw [State.pCount, hview]
  exact occ_self

@[simp] theorem resetOf_cCount (b : Build) : (State.resetOf b).cCount = 0 := by
  have hview : (State.resetOf b).pushedView = 0 := by
    unfold State.pushedView
    split
    · rfl
    · exact resetOf_pushedSeenC b
  rw [State.cCount, hview]
  exact occ_self

theorem blockInv_resetOf {b : Build} (hl : b.legal = true) : BlockInv (State.resetOf b) := by
  have hcap : 0 < 2 * (State.resetOf b).cap := Nat.mul_pos two_pos (legal_facts hl).1
  exact blockInv_of_running hl rfl hcap hcap ⟨rfl, rfl⟩
    (runningInv_of_reset ⟨rfl, rfl, rfl, rfl, rfl, rfl, rfl⟩ ⟨rfl, rfl, rfl, rfl⟩)

/-! ### A clock edge (R30, R175) -/

/-- R30: at a capturing edge stage `k` takes stage `k - 1`. -/
theorem getElem?_shifted (x : Nat) {l : List Nat} {k : Nat} (h1 : 1 ≤ k) (hk : k < l.length) :
    (x :: l.dropLast)[k]? = l[k - 1]? := by
  obtain ⟨j, rfl⟩ := Nat.exists_eq_add_of_le' h1
  rw [List.getElem?_cons_succ, List.getElem?_dropLast, if_pos (by omega), Nat.add_sub_cancel]

theorem resetLineOf_running (hr : Running s) (d : Domain) : resetLineOf d s = .released := by
  cases d
  · exact hr.1
  · exact hr.2

/-- Out of reset an edge with a request performs it and shifts the domain's chain. -/
theorem runEdge_request {d : Domain} {bits : Nat} {late : Bool} {i : Instr} (hr : Running s)
    (hdec : decode s.build (portOf s.build d) bits = .ok i) (he : exec i s = .next t) :
    runEdge d (some bits) late s = .next (capture d late t) := by
  simp [runEdge, runRequest_ok hdec, he, resetLineOf_running hr]

/-- Out of reset an edge with no request answers as the port's NOP and shifts the domain's chain. -/
theorem runEdge_idle {d : Domain} {late : Bool} (hr : Running s) (hl : s.build.legal = true) (hf : ringFault s = none) :
    runEdge d none late s = .next (capture d late (respond (portOf s.build d) .ok none s s)) := by
  rw [runEdge, idleEdge, guarded_ok hl ((stateFault_running hr).trans hf), resetLineOf_running hr]

theorem takeInput_edge_request {d : Domain} {bits : Nat} {late : Bool} {i : Instr} (hd : portsDistinct s = true)
    (hp : portDriven (portOf s.build d) s = false) (hr : Running s)
    (hdec : decode s.build (portOf s.build d) bits = .ok i) (he : exec i s = .next t) :
    takeInput (.edge d (some bits) late) s = .next (capture d late t) := by
  obtain ⟨⟨hl, -, -, hf⟩, -⟩ := exec_next_ready hr he
  simp only [takeInput, fromOutside, hp, runEdge_request hr hdec he]
  exact composed_ok hd hl ((stateFault_running hr).trans hf)

theorem takeInput_edge_idle {d : Domain} {late : Bool} (hd : portsDistinct s = true) (hr : Running s)
    (hl : s.build.legal = true) (hf : ringFault s = none) :
    takeInput (.edge d none late) s = .next (capture d late (respond (portOf s.build d) .ok none s s)) := by
  rw [takeInput, composed_ok hd hl ((stateFault_running hr).trans hf)]
  exact runEdge_idle hr hl hf

end Sys2Proof.Machine
end

section
/-! PROOFS. The obligations of the family 10_state.md. -/

namespace Sys2Proof.Proofs.StateFamily

open Sys2Proof Sys2Proof.Machine

/-- Settles O38: the effect of each input keeps the invariant, and the idle step changes nothing. -/
theorem everyStepKeepsTheBlockInvariant : Obligations.EveryStepKeepsTheBlockInvariant := by
  intro s t h hs
  rcases step_next hs with ⟨-, rfl⟩ | ⟨e, rest, -, he⟩
  · exact h
  · exact (blockInv_setInputs.mpr h).effect he

/-- Settles O39: a state that meets the invariant is no fault of its own, and neither is the effect of any input. -/
theorem invariantStatesNeverFault : Obligations.InvariantStatesNeverFault := by
  intro s h
  unfold SafeStep step
  split
  · exact noFault_composed (stateFault_none_of_inv h) (noFault_next s)
  · exact noFault_takeInput (blockInv_setInputs.mpr h) _

/-- Settles O45: storing appends to the contents and taking removes their head, each admitted by its side's view. -/
theorem operationsRefineTheQueue : Obligations.OperationsRefineTheQueue := by
  intro s h hr
  have hready : ∀ p, s.build.hasPort p = true → Ready p s := fun p hp => Live.ready ⟨h, hr, hp⟩
  refine ⟨contents_length, fun hk => ?_, fun v hp hv hroom => ?_, fun hcount => ?_, fun hcount => ?_⟩
  · rw [contents_length]
    exact sync_counts hk
  · exact ⟨_, (exec_push (hready .producer hp) hv).trans (if_neg hroom.ne), contents_store h hr hroom.ne v⟩
  · obtain ⟨e, hhead, -, hcons⟩ := contents_take h hr hcount.ne'
    have hpop := (exec_pop (hready .consumer rfl)).trans (if_neg hcount.ne')
    rw [hhead] at hpop
    exact ⟨_, e, _, hcons, hpop, rfl, rfl⟩
  · obtain ⟨e, hhead, -, hcons⟩ := contents_take h hr hcount.ne'
    have hpeek := (exec_peek (hready .consumer rfl)).trans (if_neg hcount.ne')
    rw [hhead] at hpeek
    exact ⟨_, e, _, hcons, hpeek, rfl, rfl⟩

/-- Settles O47: the one slot an operation reads is the head of the contents. -/
theorem staleSlotsAreNotObservable : Obligations.StaleSlotsAreNotObservable :=
  fun _ _ _ _ h hr hm hc he => exec_answersAlike h hr hm hc he

/-- Settles O11: the conditions of a request come first, each by its own lemma; past them every operation completes but
the read of an unwritten slot. -/
theorem stopsOutOfResetHaveTheseReasons : Obligations.StopsOutOfResetHaveTheseReasons := by
  intro i s hr
  have hfit : i.wellFormed s.build = true → s.build.hasPort i.port = true ∧ i.fits s.build = true := fun hw => by
    simpa [Instr.wellFormed] using hw
  refine ⟨exec_portAbsent, exec_operandTooWide, fun f hl hw hf => ?_, fun hl hw hf hu => ?_, fun hl hw hf hu => ?_⟩
  · exact exec_stateFault hl hw ((stateFault_running hr).trans hf)
  · exact exec_readsUnwritten ⟨hl, (hfit hw).1, hr, hf⟩ hu
  · exact exec_completes ⟨hl, (hfit hw).1, hr, hf⟩ (hfit hw).2 hu

/-- Settles O33: what a PUSH or INGEST can have done is to respond, to count a drop, or to store. -/
theorem storingOperationsFrame : Obligations.StoringOperationsFrame := by
  intro i s t hr hi he
  obtain ⟨⟨hl, -⟩, -⟩ := exec_next_ready hr he
  have hcap : 1 ≤ s.cap := (legal_facts hl).1
  have hport : i.port ≠ .consumer := by rcases hi with ⟨v, rfl⟩ | ⟨b, f, rfl⟩ <;> simp [Instr.port]
  rcases exec_cases hr he with ⟨st, d, rfl, -⟩ | ⟨v, rfl, -, -, rfl⟩ | ⟨e, rfl, -⟩ | ⟨f, rfl, -, rfl⟩
    | ⟨f, rfl, -, -, rfl⟩
  · refine ⟨rfl, fun _ _ => rfl, fun _ => rfl, ?_, ?_, ?_⟩
    · rcases hi with ⟨v, rfl⟩ | ⟨b, f, rfl⟩ <;> rfl
    · rintro v rfl
      exact ⟨rfl, rfl, rfl⟩
    · rintro b f rfl
      rfl
  · refine ⟨respond_store_frame (q := s.seq) rfl, fun j hj => store_slot_ne v hj, fun hsame => ?_, by simp, by simp,
      by simp⟩
    exact absurd (by simpa using hsame) (inc_ne_self hcap)
  · exact absurd rfl hport
  · exact ⟨rfl, fun _ _ => rfl, fun _ => rfl, rfl, by simp, fun _ _ _ => rfl⟩
  · refine ⟨respond_store_frame rfl, fun j hj => store_slot_ne (s := { s with seq := s.seq + 1 }) _ hj, fun hsame => ?_,
      by simp, by simp, by simp⟩
    exact absurd (by simpa [State.cap] using hsame) (inc_ne_self hcap)

/-- Settles O34: what a POP can have done is to respond, or to take. -/
theorem popFrame : Obligations.PopFrame := by
  intro s t hr he
  rcases exec_cases hr he with ⟨st, d, rfl, -⟩ | ⟨v, hi, -⟩ | ⟨e, -, -, -, rfl⟩ | ⟨f, hi, -⟩ | ⟨f, hi, -⟩
  · exact ⟨rfl, rfl, rfl⟩
  · simp at hi
  · exact ⟨respond_take_frame rfl, by simp, by simp⟩
  · simp at hi
  · simp at hi

/-- Settles O42: in the effect of every input the counters take steps of R24, and the idle step changes nothing. -/
theorem countersOnlyIncrementOrReset : Obligations.CountersOnlyIncrementOrReset := by
  intro s t hs
  rcases step_next hs with ⟨-, rfl⟩ | ⟨e, rest, -, he⟩
  · exact counterSteps_of_same rfl rfl
  · have hsteps := effect_counterSteps he
    exact hsteps

/-- Settles O43: a consumer operation responds or takes; the others respond, store, or count a drop. -/
theorem eachPortWritesOnlyItsOwnSide : Obligations.EachPortWritesOnlyItsOwnSide := by
  intro i s t hr he
  rcases exec_cases hr he with ⟨st, d, rfl, -⟩ | ⟨v, rfl, -, -, rfl⟩ | ⟨e, rfl, -, -, rfl⟩ | ⟨f, rfl, -, rfl⟩
    | ⟨f, rfl, -, -, rfl⟩
  · simp
  · simp [Instr.port]
  · simp [Instr.port]
  · simp [Instr.port]
  · simp [Instr.port]

/-- Settles O12: such a state's fault comes before whatever an operation or a step would do. -/
theorem overfullStateFaults : Obligations.OverfullStateFaults := by
  intro s hl hn hp hq ho
  have hf := stateFault_of_overfull hl hn hp hq ho
  refine ⟨fun i hw => exec_stateFault hl hw hf, fun hd => ?_, fun d k => guarded_fault hl hf,
    fun d late => guarded_fault hl hf⟩
  obtain ⟨r, hr⟩ := step_eq_composed s
  exact hr.trans (composed_fault hd hl hf)

/-- Settles O13: the registers by definition, the views by the decoding of 0, and the outputs by a capacity above 0. -/
theorem resetLeavesTheListedState : Obligations.ResetLeavesTheListedState := by
  intro b s
  refine ⟨rfl, rfl, fun _ => rfl, rfl, rfl, fun g hg => List.eq_of_mem_replicate hg,
    fun g hg => List.eq_of_mem_replicate hg, List.length_replicate, List.length_replicate, rfl, rfl, fun hl => ?_⟩
  have hcap : (0 : Nat) ≠ s.cap := (Nat.ne_of_gt (legal_facts hl).1).symm
  have hfull : s.pFull = (s.pCount == s.cap) := rfl
  have hempty : s.cEmpty = (s.cCount == 0) := rfl
  have hp : s.pCount = 0 := resetOf_pCount b
  have hc : s.cCount = 0 := resetOf_cCount b
  exact ⟨by rw [hfull, hp]; exact beq_false_of_ne hcap, hp, by rw [hempty, hc]; rfl, hc, rfl, rfl,
    resetOf_poppedSeenP b, resetOf_pushedSeenC b⟩

/-- Settles O14: out of reset at the reset values; the default build is legal. -/
theorem resetMeetsTheBlockInvariant : Obligations.ResetMeetsTheBlockInvariant :=
  ⟨fun _ hl => blockInv_resetOf hl, blockInv_resetOf (by decide)⟩

/-- Settles O56: the step's own conditions add nothing to those of the edge, and `capture` is the shift by
its definition. -/
theorem stepPerformsAClockEdge : Obligations.StepPerformsAClockEdge := by
  refine ⟨fun s d late rest hd => ⟨fun bits i t hin hp hdec hr he => ?_, fun hin hr hl hf => ?_⟩, fun s late => ?_⟩
  · rw [step, hin]
    exact takeInput_edge_request hd hp hr hdec he
  · rw [step, hin]
    exact takeInput_edge_idle hd hr hl hf
  · have hcapture (hk : s.build.clocking = .async) :
        capture .producer late s = { s with rsync := sampled .producer late s :: s.rsync.dropLast
                                            poppedGrayOld := s.poppedGray }
          ∧ capture .consumer late s = { s with wsync := sampled .consumer late s :: s.wsync.dropLast
                                                pushedGrayOld := s.pushedGray } := by
      simp [capture, hk]
    refine ⟨hcapture, fun hk d => by simp [capture, hk], fun k hk h1 hlt => ?_, fun k hk h1 hlt => ?_⟩
    · rw [(hcapture hk).1]
      exact getElem?_shifted _ h1 hlt
    · rw [(hcapture hk).2]
      exact getElem?_shifted _ h1 hlt

end Sys2Proof.Proofs.StateFamily
end

section
/-! SUPPORT. One half of the ASYNC crossing as a value of its own (R30, R64 to R66): what a side sees of the other
side's counter, and what an operation, a clock edge, a sync step and any input do to it out of reset. -/

namespace Sys2Proof.Machine

/-- What a side sees through: the other side's counter, its Gray register with the code before a change that is still
near, and the side's own chain (R30, R64). -/
structure Half where
  remote : Nat
  reg : Nat
  old : Nat
  chain : List Nat

namespace Half

/-- The counter moves on and its register with it (R30). -/
def move (C : Nat) (h : Half) : Half :=
  { h with remote := inc C h.remote, reg := gray (inc C h.remote), old := h.reg }

/-- A capturing edge, with its draw (R30, R64). -/
def shift (h : Half) (late : Bool) : Half :=
  { h with old := h.reg, chain := (if late then h.old else h.reg) :: h.chain.dropLast }

/-- A sync step to the view `x` (R65, R66). -/
def catchUp (b : Build) (x : Nat) (h : Half) : Half :=
  { h with
    old := Machine.catchUp b.capacity b.counterWidth h.remote x h.old
    chain := h.chain.map (Machine.catchUp b.capacity b.counterWidth h.remote x) }

/-- The view that the last stage shows (R65, R66). -/
def view (b : Build) (h : Half) : Nat := bin b.counterWidth (h.chain.getLastD 0)

/-- How far the view lags behind the counter. -/
def lag (b : Build) (h : Half) : Nat := viewLag b h.remote h.chain

/-- What holds of a half of a running block: its counter is in range and its chain meets `ChainInv`. -/
structure Inv (b : Build) (h : Half) : Prop where
  legal : b.legal = true
  async : b.clocking = .async
  range : h.remote < 2 * b.capacity
  chain : ChainInv b h.remote h.reg h.old h.chain

variable {b : Build} {h : Half}

theorem lag_eq : h.lag b = occ b.capacity h.remote (h.view b) := rfl

theorem Inv.two_pow_eq (hi : h.Inv b) : 2 ^ b.counterWidth = 2 * b.capacity := by
  obtain ⟨-, -, hpow, -⟩ := legal_facts hi.legal
  exact hpow hi.async

theorem Inv.reg_eq (hi : h.Inv b) : h.reg = gray h.remote := by
  obtain ⟨hreg, -⟩ := hi.chain
  exact hreg

theorem Inv.chain_length (hi : h.Inv b) : h.chain.length = b.nSync := by
  obtain ⟨-, hlen, -⟩ := hi.chain
  exact hlen

theorem Inv.chain_ne_nil (hi : h.Inv b) : h.chain ≠ [] := hi.chain.ne_nil hi.legal

/-- R63: a counter value's code decodes to it. -/
theorem Inv.bin_gray (hi : h.Inv b) {x : Nat} (hx : x < 2 * b.capacity) : bin b.counterWidth (gray x) = x :=
  Machine.bin_gray (hi.two_pow_eq ▸ hx)

theorem Inv.view_lt (hi : h.Inv b) : h.view b < 2 * b.capacity := seen_lt hi.legal hi.async hi.chain

/-- The lag determines the view. -/
theorem Inv.view_eq_of_lag_eq {h' : Half} (hi : h.Inv b) (hi' : h'.Inv b) (hr : h'.remote = h.remote)
    (hlag : h'.lag b = h.lag b) : h'.view b = h.view b := by
  rw [lag_eq, lag_eq, hr] at hlag
  exact occ_right_inj hi'.view_lt hi.view_lt hlag

theorem Inv.lag_eq_zero (hi : h.Inv b) : h.lag b = 0 ↔ h.view b = h.remote :=
  (occ_eq_zero hi.view_lt).trans eq_comm

theorem Inv.shift (hi : h.Inv b) (late : Bool) : (h.shift late).Inv b where
  legal := hi.legal
  async := hi.async
  range := hi.range
  chain := hi.chain.capture hi.legal hi.async hi.range (ite_eq_or_eq ..).symm

theorem Inv.lag_shift (hi : h.Inv b) (late : Bool) : (h.shift late).lag b ≤ h.lag b :=
  hi.chain.viewLag_capture hi.legal hi.async hi.range (ite_eq_or_eq ..).symm

theorem Inv.lag_catchUp (hi : h.Inv b) {x : Nat} (hx : x < 2 * b.capacity) : (h.catchUp b x).lag b ≤ h.lag b :=
  hi.chain.viewLag_catchUp hi.legal hi.async hx

/-- A sync step to a view that lags less than the present one shows that view. -/
theorem Inv.view_catchUp (hi : h.Inv b) {x : Nat} (hx : x < 2 * b.capacity)
    (hlag : occ b.capacity h.remote x < h.lag b) : (h.catchUp b x).view b = x := by
  have hlast : (h.chain.map (Machine.catchUp b.capacity b.counterWidth h.remote x)).getLastD 0 = gray x := by
    have hne := hi.chain_ne_nil
    rw [List.getLastD_eq_getLast?, List.getLast?_map, List.getLast?_eq_some_getLast hne, Option.map_some,
      Option.getD_some]
    refine if_pos ?_
    rwa [lag, viewLag, List.getLastD_eq_getLast?, List.getLast?_eq_some_getLast hne] at hlag
  rw [view, Half.catchUp, hlast, hi.bin_gray hx]

/-- A view that lags no further behind is the earlier one moved forward, up to its lag. -/
theorem Inv.view_forward {h' : Half} (hi : h.Inv b) (hi' : h'.Inv b) (hr : h'.remote = h.remote)
    (hlag : h'.lag b ≤ h.lag b) : ∃ k, k ≤ h.lag b ∧ h'.view b = advance b.capacity (h.view b) k := by
  refine ⟨h.lag b - h'.lag b, Nat.sub_le _ _, ?_⟩
  have hk : h.lag b - h'.lag b ≤ occ b.capacity h.remote (h.view b) := Nat.sub_le _ _
  have hadv := occ_advance_right hi.range hi.view_lt hk
  rw [← lag_eq] at hadv
  refine occ_right_inj (a := h.remote) hi'.view_lt (advance_lt hi.view_lt _) ?_
  rw [← hr, ← lag_eq, hr]
  omega

/-! ### Capturing edges in a row (R65, R186) -/

/-- No change is near, and the first `k` stages hold the register's code. -/
def Filled (k : Nat) (h : Half) : Prop := h.old = h.reg ∧ ∀ g ∈ h.chain.take k, g = h.reg

/-- The first edge leaves no change near. -/
theorem filled_zero_shift (h : Half) (late : Bool) : (h.shift late).Filled 0 := ⟨rfl, by simp⟩

/-- With no change near, an edge fills one stage more. -/
theorem Filled.shift {k : Nat} (hf : h.Filled k) (late : Bool) : (h.shift late).Filled (k + 1) := by
  obtain ⟨hold, hchain⟩ := hf
  refine ⟨rfl, List.forall_mem_cons.mpr ⟨?_, fun g hg => hchain g ?_⟩⟩
  · cases late
    · rfl
    · exact hold
  · rw [List.dropLast_eq_take, List.take_take] at hg
    exact List.take_subset_take_left _ (min_le_left ..) hg

theorem Filled.shifts {k : Nat} (hf : h.Filled k) (draws : List Bool) :
    (draws.foldl Half.shift h).Filled (k + draws.length) := by
  induction draws generalizing h k with
  | nil => exact hf
  | cons late draws ih =>
    rw [List.length_cons, Nat.add_comm draws.length, ← Nat.add_assoc]
    exact ih (hf.shift late)

theorem Inv.shifts (hi : h.Inv b) (draws : List Bool) : (draws.foldl Half.shift h).Inv b := by
  induction draws generalizing h with
  | nil => exact hi
  | cons late draws ih => exact ih (hi.shift late)

theorem shifts_remote (draws : List Bool) (h : Half) : (draws.foldl Half.shift h).remote = h.remote := by
  induction draws generalizing h with
  | nil => rfl
  | cons late draws ih => exact ih (h.shift late)

/-- A chain all of whose stages hold the register's code shows the counter. -/
theorem Filled.view_eq {k : Nat} (hf : h.Filled k) (hi : h.Inv b) (hk : b.nSync ≤ k) : h.view b = h.remote := by
  obtain ⟨-, hchain⟩ := hf
  rw [List.take_of_length_le (hi.chain_length.trans_le hk)] at hchain
  rw [view, hchain _ (getLastD_mem hi.chain_ne_nil), hi.reg_eq, hi.bin_gray hi.range]

/-- `N_SYNC + 1` edges in a row make the view that of the counter, whatever the draws. -/
theorem Inv.view_shifts (hi : h.Inv b) {draws : List Bool} (hn : b.nSync + 1 ≤ draws.length) :
    (draws.foldl Half.shift h).view b = h.remote := by
  cases draws with
  | nil => simp at hn
  | cons late draws =>
    have hfilled := (filled_zero_shift h late).shifts draws
    rw [List.length_cons] at hn
    exact (hfilled.view_eq (hi.shifts (late :: draws)) (by omega)).trans (shifts_remote (late :: draws) h)

end Half

/-! ### The two halves of a state -/

/-- The half of the crossing that a side sees through. -/
def halfOf (d : Domain) (s : State) : Half :=
  match d with
  | .producer => { remote := s.popped, reg := s.poppedGray, old := s.poppedGrayOld, chain := s.rsync }
  | .consumer => { remote := s.pushed, reg := s.pushedGray, old := s.pushedGrayOld, chain := s.wsync }

/-- The state with a side's chain, and the code near its next edge, replaced. -/
def withHalf (d : Domain) (h : Half) (s : State) : State :=
  match d with
  | .producer => { s with rsync := h.chain, poppedGrayOld := h.old }
  | .consumer => { s with wsync := h.chain, pushedGrayOld := h.old }

variable {s t : State} {d e : Domain}

theorem halfOf_remote (d : Domain) (s : State) : (halfOf d s).remote = remoteOf d s := by cases d <;> rfl

theorem halfOf_view (d : Domain) (s : State) : (halfOf d s).view s.build = viewOf d s := by cases d <;> rfl

theorem halfOf_lag (d : Domain) (s : State) : (halfOf d s).lag s.build = occ s.cap (remoteOf d s) (viewOf d s) := by
  cases d <;> rfl

theorem halfOf_withHalf (d : Domain) (h : Half) (s : State) :
    halfOf d (withHalf d h s) = { halfOf d s with old := h.old, chain := h.chain } := by cases d <;> rfl

theorem halfOf_withHalf_of_ne (hne : e ≠ d) (h : Half) (s : State) : halfOf e (withHalf d h s) = halfOf e s := by
  cases d <;> cases e
  · exact absurd rfl hne
  · rfl
  · rfl
  · exact absurd rfl hne

theorem viewOf_withHalf (d : Domain) (h : Half) (s : State) : viewOf d (withHalf d h s) = h.view s.build := by
  cases d <;> rfl

@[simp] theorem halfOf_respond (p : Port) (st : Status) (o : Option Elem) (pre : State) :
    halfOf d (respond p st o pre s) = halfOf d s := by cases d <;> rfl

@[simp] theorem halfOf_setAgent (k : Nat) (a : Agent) : halfOf d (setAgent k a s) = halfOf d s := by cases d <;> rfl

@[simp] theorem halfOf_setInputs (l : List Input) : halfOf d { s with inputs := l } = halfOf d s := by cases d <;> rfl

theorem BlockInv.half (h : BlockInv s) (hr : Running s) (hk : s.build.clocking = .async) (d : Domain) :
    (halfOf d s).Inv s.build := by
  obtain ⟨hrsync, hwsync, -⟩ := h.crossing hr hk
  obtain ⟨hl, -, hp, hq, -⟩ := h
  cases d
  · exact ⟨hl, hk, hq, hrsync⟩
  · exact ⟨hl, hk, hp, hwsync⟩

/-! ### Operations -/

theorem halfOf_store (hk : s.build.clocking = .async) (v : Elem) :
    halfOf .producer (s.store v) = halfOf .producer s
      ∧ halfOf .consumer (s.store v) = (halfOf .consumer s).move s.cap := by
  simp [halfOf, Half.move, store_pushedGray_async v hk, store_pushedGrayOld_async v hk]

theorem halfOf_take (hk : s.build.clocking = .async) :
    halfOf .consumer s.take = halfOf .consumer s ∧ halfOf .producer s.take = (halfOf .producer s).move s.cap := by
  simp [halfOf, Half.move, take_poppedGray_async hk, take_poppedGrayOld_async hk]

/-- An operation leaves a side's half as it was, or is of the other side and moves the counter on. -/
theorem exec_halfOf {i : Instr} (hr : Running s) (hk : s.build.clocking = .async) (he : exec i s = .next t)
    (d : Domain) : halfOf d t = halfOf d s ∨ domainOf i.port ≠ d ∧ halfOf d t = (halfOf d s).move s.cap := by
  rcases exec_cases hr he with ⟨st, o, rfl, -⟩ | ⟨v, rfl, -, -, rfl⟩ | ⟨e, rfl, -, -, rfl⟩ | ⟨f, rfl, -, rfl⟩
    | ⟨f, rfl, -, -, rfl⟩
  · exact .inl (halfOf_respond ..)
  · cases d
    · exact .inl (halfOf_store hk v).1
    · exact .inr ⟨by simp [Instr.port, domainOf], (halfOf_store hk v).2⟩
  · cases d
    · exact .inr ⟨by simp [Instr.port, domainOf], (halfOf_take hk).2⟩
    · exact .inl (halfOf_take hk).1
  · cases d <;> exact .inl rfl
  · have hstore := halfOf_store (s := { s with seq := s.seq + 1 }) hk (stampedElement f (nextStamp s))
    cases d
    · exact .inl hstore.1
    · exact .inr ⟨by simp [Instr.port, domainOf], hstore.2⟩

/-! ### Clock edges and sync steps -/

theorem domainOf_portOf (b : Build) (d : Domain) : domainOf (portOf b d) = d := by
  cases d
  · cases hi : b.ingestPresent <;> simp [portOf, hi, domainOf]
  · rfl

theorem capture_async (hk : s.build.clocking = .async) (d : Domain) (late : Bool) :
    capture d late s = withHalf d ((halfOf d s).shift late) s := by
  cases d <;> cases late <;> simp [capture, hk, sampled, withHalf, halfOf, Half.shift]

theorem halfOf_capture (hk : s.build.clocking = .async) (d : Domain) (late : Bool) :
    halfOf d (capture d late s) = (halfOf d s).shift late := by
  rw [capture_async hk, halfOf_withHalf]
  rfl

theorem halfOf_capture_of_ne (hk : s.build.clocking = .async) (hne : e ≠ d) (late : Bool) :
    halfOf e (capture d late s) = halfOf e s := by
  rw [capture_async hk, halfOf_withHalf_of_ne hne]

/-- Out of reset a clock edge shifts the half of its side, and does to the other one what the port's operation does. -/
theorem runEdge_halfOf {bits : Option Nat} {late : Bool} (hr : Running s) (hk : s.build.clocking = .async)
    (he : runEdge d bits late s = .next t) : Running t ∧ halfOf d t = (halfOf d s).shift late
      ∧ ∀ e, e ≠ d → halfOf e t = halfOf e s ∨ halfOf e t = (halfOf e s).move s.cap := by
  rcases runEdge_next he with ⟨-, he⟩ | ⟨i, u, hi, hu, rfl⟩
  · obtain ⟨-, ⟨hd, -⟩ | ⟨-, rfl⟩⟩ := idleEdge_next he
    · exact absurd (resetLineOf_running hr d) hd
    · have hku : (respond (portOf s.build d) .ok none s s).build.clocking = .async := hk
      refine ⟨by simpa [Running] using hr, ?_, fun e hne => .inl ?_⟩
      · rw [halfOf_capture hku, halfOf_respond]
      · rw [halfOf_capture_of_ne hku hne, halfOf_respond]
  · obtain ⟨hbuild, hru, -⟩ := exec_surroundings hr hu
    have hku : u.build.clocking = .async := hbuild ▸ hk
    rw [if_pos (resetLineOf_running hr d)]
    refine ⟨by simpa [Running] using hru, ?_, fun e hne => ?_⟩
    · rw [halfOf_capture hku]
      rcases exec_halfOf hr hk hu d with hsame | ⟨hne, -⟩
      · rw [hsame]
      · exact absurd (hi ▸ domainOf_portOf s.build d) hne
    · rw [halfOf_capture_of_ne hku hne]
      exact (exec_halfOf hr hk hu e).imp_right And.right

/-- A sync step, of a length up to the lag, takes the half of its side to the view that far on; of any other it is
refused (R65, R66). -/
theorem syncBy_eq (d : Domain) (k : Nat) (s : State) :
    syncBy d k s = if 1 ≤ k ∧ k ≤ occ s.cap (remoteOf d s) (viewOf d s) then
        .next (withHalf d ((halfOf d s).catchUp s.build (advance s.cap (viewOf d s) k)) s)
      else .refused .illegalSyncStep := by
  cases d <;> rfl

/-- A running ASYNC block in a state the spec gives a step takes a sync step as it is. -/
theorem syncStep_running (h : BlockInv s) (hr : Running s) (hk : s.build.clocking = .async) (k : Nat) :
    syncStep d k s = syncBy d k s := by
  rw [syncStep, guarded_ok h.1 (stateFault_none_of_inv h)]
  simp [hk, hr.1, hr.2]

/-! ### Any input -/

/-- What an input can do to a half of a running ASYNC block that it leaves running. -/
def HalfStep (b : Build) (h h' : Half) : Prop :=
  h' = h ∨ h' = h.move b.capacity ∨ (∃ late, h' = h.shift late) ∨ ∃ x, x < 2 * b.capacity ∧ h' = h.catchUp b x

theorem halfStep_of_exec {i : Instr} (hr : Running s) (hk : s.build.clocking = .async) (he : exec i s = .next t) :
    HalfStep s.build (halfOf d s) (halfOf d t) := by
  rcases exec_halfOf hr hk he d with h | ⟨-, h⟩
  · exact .inl h
  · exact .inr (.inl h)

theorem halfStep_of_runEdge {bits : Option Nat} {late : Bool} (hr : Running s) (hk : s.build.clocking = .async)
    (he : runEdge e bits late s = .next t) : HalfStep s.build (halfOf d s) (halfOf d t) := by
  obtain ⟨-, hown, hother⟩ := runEdge_halfOf hr hk he
  by_cases hd : d = e
  · subst hd
    exact .inr (.inr (.inl ⟨late, hown⟩))
  · rcases hother d hd with h | h
    · exact .inl h
    · exact .inr (.inl h)

theorem halfStep_of_syncStep (h : BlockInv s) {k : Nat} (he : syncStep e k s = .next t) :
    HalfStep s.build (halfOf d s) (halfOf d t) := by
  obtain ⟨-, hk, hr, -, hs⟩ := syncStep_next he
  rw [syncBy_eq] at hs
  split at hs
  · cases hs
    by_cases hd : d = e
    · subst hd
      have hview := (h.half hr hk d).view_lt
      rw [halfOf_view] at hview
      exact .inr (.inr (.inr ⟨_, advance_lt hview k, halfOf_withHalf ..⟩))
    · exact .inl (halfOf_withHalf_of_ne hd ..)
  · simp at hs

theorem effect_halfStep (h : BlockInv s) (hr : Running s) (hk : s.build.clocking = .async) {i : Input}
    (he : i.effect s = .next t) (ht : Running t) : HalfStep s.build (halfOf d s) (halfOf d t) := by
  cases i with
  | request p bits =>
    obtain ⟨i, -, hi⟩ := runRequest_next he
    exact halfStep_of_exec hr hk hi
  | sameCycle v w => exact absurd ((runSameCycle_next he).1.symm.trans hk) (by simp)
  | edge e bits late => exact halfStep_of_runEdge hr hk he
  | agent k =>
    rcases agentStep_next he with rfl | ⟨a, rfl⟩ | ⟨i, u, a, hu, rfl⟩
    · exact .inl rfl
    · exact .inl (halfOf_setAgent k a)
    · rw [halfOf_setAgent]
      exact halfStep_of_exec hr hk hu
  | sync e k => exact halfStep_of_syncStep h he
  | rstAssert =>
    cases he
    exact absurd ht.1 (ResetLine.assert_ne_released s.rstP)
  | rstRelease e =>
    obtain ⟨-, -, hlines, -⟩ := releaseReset_next he
    rw [hlines]
    cases d <;> exact .inl rfl

/-- Where the counter stays, its view lags no further behind. -/
theorem HalfStep.lag_le {b : Build} {h h' : Half} (hs : HalfStep b h h') (hi : h.Inv b) (hr : h'.remote = h.remote) :
    h'.lag b ≤ h.lag b := by
  rcases hs with rfl | rfl | ⟨late, rfl⟩ | ⟨x, hx, rfl⟩
  · exact Nat.le_refl _
  · exact absurd hr (inc_ne_self (legal_facts hi.legal).1)
  · exact hi.lag_shift late
  · exact hi.lag_catchUp hx

/-! ### Views (R65, R66) -/

/-- R65 law 2: a sync step of a legal length moves the view forward by it, and touches its side's chain alone. -/
theorem BlockInv.syncStep_moves (h : BlockInv s) (hr : Running s) (hk : s.build.clocking = .async) {k : Nat}
    (h1 : 1 ≤ k) (hlag : k ≤ occ s.cap (remoteOf d s) (viewOf d s)) :
    ∃ h', Machine.syncStep d k s = .next (withHalf d h' s)
      ∧ viewOf d (withHalf d h' s) = advance s.cap (viewOf d s) k
      ∧ occ s.cap (remoteOf d s) (viewOf d (withHalf d h' s)) + k = occ s.cap (remoteOf d s) (viewOf d s) := by
  have hi := h.half hr hk d
  have hview : viewOf d s < 2 * s.cap := halfOf_view d s ▸ hi.view_lt
  have hremote : remoteOf d s < 2 * s.cap := halfOf_remote d s ▸ hi.range
  have hback := occ_advance_right hremote hview hlag
  have hnearer : occ s.cap (remoteOf d s) (advance s.cap (viewOf d s) k) < occ s.cap (remoteOf d s) (viewOf d s) := by
    omega
  rw [← halfOf_lag, ← halfOf_remote] at hnearer
  have hshown : viewOf d (withHalf d ((halfOf d s).catchUp s.build (advance s.cap (viewOf d s) k)) s)
      = advance s.cap (viewOf d s) k := by
    rw [viewOf_withHalf, hi.view_catchUp (advance_lt hview k) hnearer]
  refine ⟨_, ?_, hshown, by rw [hshown]; exact hback⟩
  rw [syncStep_running h hr hk, syncBy_eq, if_pos ⟨h1, hlag⟩]

theorem BlockInv.syncStep_refused (h : BlockInv s) (hr : Running s) (hk : s.build.clocking = .async) {k : Nat}
    (hbad : k = 0 ∨ occ s.cap (remoteOf d s) (viewOf d s) < k) :
    Machine.syncStep d k s = .refused .illegalSyncStep := by
  rw [syncStep_running h hr hk, syncBy_eq, if_neg (by omega)]

/-- R65: a clock edge moves its side's view forward by some number of steps up to its lag, and leaves the other's. -/
theorem BlockInv.runEdge_views (h : BlockInv s) (hr : Running s) (hk : s.build.clocking = .async)
    {bits : Option Nat} {late : Bool} (he : Machine.runEdge d bits late s = .next t) :
    (∀ e, e ≠ d → viewOf e t = viewOf e s)
      ∧ ∃ k, k ≤ occ s.cap (remoteOf d s) (viewOf d s) ∧ viewOf d t = advance s.cap (viewOf d s) k := by
  obtain ⟨-, hown, hother⟩ := runEdge_halfOf hr hk he
  have hbuild := runEdge_build he
  have hi := h.half hr hk d
  refine ⟨fun e hne => ?_, ?_⟩
  · rw [← halfOf_view, ← halfOf_view, hbuild]
    rcases hother e hne with hsame | hmove
    · rw [hsame]
    · rw [hmove]
      rfl
  · rw [← halfOf_lag, ← halfOf_view, ← halfOf_view, hbuild, hown]
    exact hi.view_forward (hi.shift late) rfl (hi.lag_shift late)

end Sys2Proof.Machine
end

section
/-! SUPPORT. Runs of a block: the invariant along them, and where a view that may only come nearer ends (R65 law 3,
R66). -/

namespace Sys2Proof.Machine

variable {d : Domain} {schedule : Nat → Option Input} {run : Nat → State} {n : Nat}

/-- A step between running states of an ASYNC block moves each half by a step of its own. -/
theorem step_halfStep {s t : State} (h : BlockInv s) (hr : Running s) (hk : s.build.clocking = .async)
    (hs : step s = .next t) (ht : Running t) : HalfStep s.build (halfOf d s) (halfOf d t) := by
  rcases step_next hs with ⟨-, rfl⟩ | ⟨e, rest, -, he⟩
  · exact .inl rfl
  · have hstep := effect_halfStep (d := d) (blockInv_setInputs (rest := rest).mpr h) hr hk he ht
    rwa [halfOf_setInputs] at hstep

theorem IsRun.build_eq (hrun : IsRun schedule run) (m : Nat) : (run m).build = (run 0).build := by
  induction m with
  | zero => rfl
  | succ m ih => exact (Proofs.Scope.noStepChangesTheBuild _ _ (hrun m)).trans ih

theorem IsRun.blockInv (hrun : IsRun schedule run) (h : BlockInv (run 0)) (m : Nat) : BlockInv (run m) := by
  induction m with
  | zero => exact h
  | succ m ih => exact Proofs.StateFamily.everyStepKeepsTheBlockInvariant _ _ (blockInv_setInputs.mpr ih) (hrun m)

/-- A number that never rises, and that falls again and again while it is not 0, is 0 from some moment on. -/
theorem eventually_zero {f : Nat → Nat} (hfall : ∀ m, n ≤ m → f (m + 1) ≤ f m)
    (hdrop : ∀ m, n ≤ m → (∀ j, m ≤ j → f j ≠ 0) → ∃ j, m ≤ j ∧ f (j + 1) < f j) :
    ∃ m, n ≤ m ∧ ∀ j, m ≤ j → f j = 0 := by
  have hle : ∀ m, n ≤ m → ∀ j, m ≤ j → f j ≤ f m := fun m hm j hj => by
    induction j, hj using Nat.le_induction with
    | base => exact Nat.le_refl _
    | succ j hj ih => exact (hfall j (hm.trans hj)).trans ih
  have hzero : ∀ v m, n ≤ m → f m = v → ∃ j, m ≤ j ∧ f j = 0 := fun v => by
    induction v using Nat.strong_induction_on with
    | _ v ih =>
      intro m hm hv
      by_contra hnone
      obtain ⟨j, hj, hlt⟩ := hdrop m hm fun j hj hz => hnone ⟨j, hj, hz⟩
      have hlow : f (j + 1) < v := hv ▸ hlt.trans_le (hle m hm j hj)
      obtain ⟨i, hi, hz⟩ := ih _ hlow (j + 1) (by omega) rfl
      exact hnone ⟨i, by omega, hz⟩
  obtain ⟨m, hm, hz⟩ := hzero _ n (Nat.le_refl n) rfl
  exact ⟨m, hm, fun j hj => Nat.le_zero.mp (hz ▸ hle m hm j hj)⟩

/-- R65 law 3, R66: in a weakly fair run a side's view reaches the counter it sees, once that stops changing, and
stays. -/
theorem view_reaches_stopped_counter (hrun : IsRun schedule run) (hfair : WeaklyFair d run) (h : BlockInv (run 0))
    (hk : (run 0).build.clocking = .async) (hr : ∀ m, n ≤ m → Running (run m))
    (hstop : ∀ m, n ≤ m → remoteOf d (run m) = remoteOf d (run n)) :
    ∃ m, n ≤ m ∧ ∀ j, m ≤ j → viewOf d (run j) = remoteOf d (run n) := by
  have hasync : ∀ m, (run m).build.clocking = .async := fun m => by rw [hrun.build_eq, hk]
  generalize hb : (run 0).build = b
  have hbuild : ∀ m, (run m).build = b := fun m => (hrun.build_eq m).trans hb
  have hinv : ∀ m, n ≤ m → (halfOf d (run m)).Inv b := fun m hm =>
    hbuild m ▸ (hrun.blockInv h m).half (hr m hm) (hasync m) d
  have hsame : ∀ m, n ≤ m → (halfOf d (run (m + 1))).remote = (halfOf d (run m)).remote := fun m hm => by
    rw [halfOf_remote, halfOf_remote, hstop m hm, hstop (m + 1) (by omega)]
  have hview : ∀ m, (halfOf d (run m)).view b = viewOf d (run m) := fun m => by
    rw [← halfOf_view, hbuild]
  have hfall : ∀ m, n ≤ m → (halfOf d (run (m + 1))).lag b ≤ (halfOf d (run m)).lag b := fun m hm => by
    have hstep := step_halfStep (d := d) (blockInv_setInputs (rest := (schedule m).toList).mpr (hrun.blockInv h m))
      (hr m hm) (hasync m) (hrun m) (hr (m + 1) (by omega))
    rw [halfOf_setInputs, hbuild m] at hstep
    exact hstep.lag_le (hinv m hm) (hsame m hm)
  obtain ⟨m, hm, hzero⟩ := eventually_zero hfall fun m hm hne => by
    obtain ⟨j, hj, hmoved⟩ := hfair m fun i hi => ⟨hasync i, hr i (hm.trans hi), by
      rw [← halfOf_lag, hbuild]
      exact Nat.pos_of_ne_zero (hne i hi)⟩
    refine ⟨j, hj, Nat.lt_of_le_of_ne (hfall j (hm.trans hj)) fun heq => hmoved ?_⟩
    rw [← hview, ← hview]
    exact (hinv j (hm.trans hj)).view_eq_of_lag_eq (hinv (j + 1) (by omega)) (hsame j (hm.trans hj)) heq
  refine ⟨m, hm, fun j hj => ?_⟩
  rw [← hview, (hinv j (hm.trans hj)).lag_eq_zero.mp (hzero j hj), halfOf_remote, hstop j (hm.trans hj)]

/-- Out of reset the edges of a side in a row shift its half, each with its draw. -/
theorem edges_halfOf {l : List (Option Nat × Bool)} {s t : State} (hr : Running s) (hk : s.build.clocking = .async)
    (he : edges d l s = .next t) :
    t.build = s.build ∧ halfOf d t = (l.map Prod.snd).foldl Half.shift (halfOf d s) := by
  induction l generalizing s with
  | nil =>
    cases he
    exact ⟨rfl, rfl⟩
  | cons e l ih =>
    rw [edges] at he
    split at he
    · rename_i u hu
      obtain ⟨hru, hown, -⟩ := runEdge_halfOf hr hk hu
      have hbuild := runEdge_build hu
      obtain ⟨hbuild', hhalf⟩ := ih hru (hbuild ▸ hk) he
      exact ⟨hbuild'.trans hbuild, by rw [hhalf, hown]; rfl⟩
    · simp at he
    · simp at he

/-- R65, R186: in registers a view reaches its counter within `N_SYNC + 1` edges of its side. -/
theorem edges_reach_counter {l : List (Option Nat × Bool)} {s t : State} (h : BlockInv s) (hr : Running s)
    (hk : s.build.clocking = .async) (hn : s.build.nSync + 1 ≤ l.length) (he : edges d l s = .next t) :
    remoteOf d t = remoteOf d s ∧ viewOf d t = remoteOf d s := by
  obtain ⟨hbuild, hhalf⟩ := edges_halfOf hr hk he
  have hview := (h.half hr hk d).view_shifts (draws := l.map Prod.snd) (by rwa [List.length_map])
  rw [← halfOf_remote, ← halfOf_remote, ← halfOf_view, hbuild, hhalf]
  exact ⟨Half.shifts_remote .., hview⟩

end Sys2Proof.Machine
end

section
/-! SUPPORT. The Gray code bit by bit, neighbours that differ in one bit, and the code that a first stage captures
(R62 to R64). -/

namespace Sys2Proof.Machine

/-! ### Decoding (R63) -/

/-- R63: each bit of the decoding is the bit above it XOR the bit of the code; above the code's width there are none. -/
theorem testBit_bin {w g : Nat} (h : g < 2 ^ w) (j : Nat) :
    (bin w g).testBit j = ((bin w g).testBit (j + 1) ^^ g.testBit j) := by
  have hrec : (bin w g).testBit j = (g ^^^ bin w g >>> 1).testBit j := by rw [bin_shift h, ← bin_rec h]
  rw [hrec, Nat.testBit_xor, Nat.testBit_shiftRight, Nat.add_comm 1 j, Bool.xor_comm]

theorem testBit_bin_top {w g : Nat} (h : g < 2 ^ w) (hw : 1 ≤ w) : (bin w g).testBit (w - 1) = g.testBit (w - 1) := by
  have habove : (bin w g).testBit (w - 1 + 1) = false := by
    rw [Nat.sub_add_cancel hw]
    exact Nat.testBit_lt_two_pow (bin_lt h)
  rw [testBit_bin h, habove, Bool.false_xor]

/-- Each code of the counter's width is the Gray code of what it decodes to. -/
theorem gray_bin {w g : Nat} (h : g < 2 ^ w) : gray (bin w g) = g := by
  rw [gray, bin_shift h, bin_rec h, Nat.xor_assoc, Nat.xor_self, Nat.xor_zero]

/-! ### Neighbours (R62) -/

theorem gray_div_two (x : Nat) : gray x / 2 = gray (x / 2) := gray_shift x

theorem gray_mod_two (x : Nat) : gray x % 2 = (x + x / 2) % 2 := by
  rw [gray, Nat.xor_mod_two_eq, Nat.shiftRight_one]

/-- R62: on from an even value only the lowest bit of the code changes; on from an odd one only bits above it do, as
half the value moves on. -/
theorem gray_neighbours {w x : Nat} (hw : 1 ≤ w) (hx : x < 2 ^ w) :
    ∃ j, j < w ∧ gray x ^^^ gray ((x + 1) % 2 ^ w) = 2 ^ j := by
  induction w, hw using Nat.le_induction generalizing x with
  | base =>
    refine ⟨0, one_pos, ?_⟩
    obtain rfl | rfl : x = 0 ∨ x = 1 := by omega
    · rfl
    · rfl
  | succ w hw ih =>
    have hpow : 2 ^ (w + 1) = 2 * 2 ^ w := Nat.pow_succ'
    have heven : 2 ^ w % 2 = 0 := Nat.mod_eq_zero_of_dvd (dvd_pow_self 2 (by omega))
    generalize hy : (x + 1) % 2 ^ (w + 1) = y
    have hhigh : (gray x ^^^ gray y) / 2 = gray (x / 2) ^^^ gray (y / 2) := by
      rw [Nat.xor_div_two, gray_div_two, gray_div_two]
    have hlow : (gray x ^^^ gray y) % 2 = (x + x / 2 + (y + y / 2)) % 2 := by
      rw [Nat.xor_mod_two_eq, Nat.add_mod, gray_mod_two, gray_mod_two, ← Nat.add_mod]
    obtain hx2 | hx2 := Nat.mod_two_eq_zero_or_one x
    · have hval : y = x + 1 := by rw [← hy, Nat.mod_eq_of_lt (by omega)]
      have hhalf : y / 2 = x / 2 := by omega
      refine ⟨0, by omega, ?_⟩
      rw [hhalf, Nat.xor_self] at hhigh
      omega
    · have hhalf : y / 2 = (x / 2 + 1) % 2 ^ w := by
        rw [← hy, hpow, Nat.mod_mul_right_div_self]
        congr 1
        omega
      obtain ⟨j, hj, hbit⟩ := ih (x := x / 2) (by omega)
      refine ⟨j + 1, by omega, ?_⟩
      rw [← hhalf, ← hhigh] at hbit
      have hparity : (x + 1) % 2 ^ (w + 1) % 2 = (x + 1) % 2 := Nat.mod_mod_of_dvd _ (hpow ▸ Nat.dvd_mul_right 2 _)
      have hparity' : (x / 2 + 1) % 2 ^ w % 2 = (x / 2 + 1) % 2 :=
        Nat.mod_mod_of_dvd _ (Nat.dvd_of_mod_eq_zero heven)
      rw [Nat.pow_succ]
      omega

/-! ### What a first stage captures (R64) -/

/-- The old code is that of the counter, or of the value one `inc` before it, one bit apart. -/
theorem Half.Inv.old_code {b : Build} {h : Half} (hi : h.Inv b) :
    ∃ x, x < 2 * b.capacity ∧ h.old = gray x
      ∧ (x = h.remote ∨ inc b.capacity x = h.remote ∧ ∃ j, gray x ^^^ gray h.remote = 2 ^ j) := by
  obtain ⟨-, -, hcodes, -, hnear⟩ := chainInv_iff.mp hi.chain
  have hcode : h.old < 2 ^ b.counterWidth := hcodes _ List.mem_cons_self
  have hpow := hi.two_pow_eq
  have hx : bin b.counterWidth h.old < 2 * b.capacity := hpow ▸ bin_lt hcode
  refine ⟨_, hx, (gray_bin hcode).symm, ?_⟩
  obtain hzero | hone : codeLag b h.remote h.old = 0 ∨ codeLag b h.remote h.old = 1 := by omega
  · exact .inl ((occ_eq_zero hx).mp hzero).symm
  · have hinc : inc b.capacity (bin b.counterWidth h.old) = h.remote := by
      have hadv := advance_occ hi.range hx
      rwa [show occ b.capacity h.remote (bin b.counterWidth h.old) = 1 from hone] at hadv
    have hwidth : 1 ≤ b.counterWidth := by
      obtain ⟨hcap, -⟩ := legal_facts hi.legal
      by_contra hw
      rw [Nat.lt_one_iff.mp (Nat.not_le.mp hw), Nat.pow_zero] at hpow
      omega
    obtain ⟨j, -, hbit⟩ := gray_neighbours hwidth (bin_lt hcode)
    rw [hpow, ← inc_eq_mod hx, hinc] at hbit
    exact .inr ⟨hinc, j, hbit⟩

variable {s t : State} {d : Domain}

/-- R64: at a capturing edge the first stage takes the register's code or, by the draw, the code before a change. -/
theorem capture_head (hk : s.build.clocking = .async) (d : Domain) (late : Bool) :
    (halfOf d (capture d late s)).chain.head? = some (if late then (halfOf d s).old else (halfOf d s).reg) := by
  rw [halfOf_capture hk]
  rfl

theorem BlockInv.capture_head_reg (h : BlockInv s) (hr : Running s) (hk : s.build.clocking = .async) (d : Domain) :
    (halfOf d (Machine.capture d false s)).chain.head? = some (gray (remoteOf d s)) := by
  rw [capture_head hk, ← halfOf_remote, ← (h.half hr hk d).reg_eq]
  rfl

theorem BlockInv.capture_head_old (h : BlockInv s) (hr : Running s) (hk : s.build.clocking = .async) (d : Domain) :
    ∃ x, x < 2 * s.cap ∧ (halfOf d (Machine.capture d true s)).chain.head? = some (gray x)
      ∧ (x = remoteOf d s ∨ inc s.cap x = remoteOf d s ∧ ∃ j, gray x ^^^ gray (remoteOf d s) = 2 ^ j) := by
  obtain ⟨x, hx, hold, hcases⟩ := (h.half hr hk d).old_code
  rw [halfOf_remote] at hcases
  refine ⟨x, hx, ?_, hcases⟩
  rw [capture_head hk, ← hold]
  rfl

/-- After an operation that moved a counter on, the old code is that of the counter before it. -/
theorem BlockInv.capture_head_after (h : BlockInv s) (hr : Running s) (hk : s.build.clocking = .async) {i : Instr}
    (he : Machine.exec i s = .next t) (hmoved : remoteOf d t ≠ remoteOf d s) :
    (halfOf d (Machine.capture d true t)).chain.head? = some (gray (remoteOf d s))
      ∧ (halfOf d (Machine.capture d false t)).chain.head? = some (gray (remoteOf d t)) := by
  obtain ⟨hbuild, hrt, -⟩ := exec_surroundings hr he
  have hkt : t.build.clocking = .async := hbuild ▸ hk
  refine ⟨?_, (h.exec he).capture_head_reg hrt hkt d⟩
  rw [capture_head hkt]
  rcases exec_halfOf hr hk he d with hsame | ⟨-, hmove⟩
  · exact absurd (by rw [← halfOf_remote, hsame, halfOf_remote]) hmoved
  · rw [hmove, ← halfOf_remote, ← (h.half hr hk d).reg_eq]
    rfl

end Sys2Proof.Machine
end

section
/-! SUPPORT. The read-only operations (R55), and that every operation completes (R191). -/

namespace Sys2Proof.Machine

variable {s t : State} {i : Instr}

/-! ### Reads (R55) -/

/-- The seven operations that write no state. -/
def ReadOnly (i : Instr) : Prop := (∀ v, i ≠ .push v) ∧ i ≠ .pop ∧ ∀ h f, i ≠ .ingest h f

/-- The status and data of a read-only operation; `none` where it reads a slot without a value. -/
def readAnswer (i : Instr) (s : State) : Option (Status × Option Elem) :=
  match i with
  | .illegalP _ => some (.illegal, none)
  | .peek => if s.cCount = 0 then some (.emptyOrNoMessage, none) else s.head.map fun e => (.ok, some e)
  | _ => some (.ok, none)

/-- On a ready port a read-only operation drives its answer, and no more. -/
theorem exec_readOnly (hi : ReadOnly i) (hd : Ready i.port s) (hf : i.fits s.build = true) :
    exec i s = match readAnswer i s with
      | some (st, d) => .next (respond i.port st d s s)
      | none => .fault .slotUnwritten := by
  cases i with
  | nopP v => exact exec_nopP hd (of_decide_eq_true hf)
  | push v => exact absurd rfl (hi.1 v)
  | pendingP v => exact exec_pendingP hd (of_decide_eq_true hf)
  | illegalP v => exact exec_illegalP hd (of_decide_eq_true hf)
  | nopC => exact exec_nopC hd
  | pop => exact absurd rfl hi.2.1
  | peek =>
    rw [exec_peek hd, readAnswer]
    by_cases hc : s.cCount = 0
    · simp [hc, Instr.port]
    · cases hhead : s.head <;> simp [hc, Instr.port]
  | pendingC => exact exec_pendingC hd
  | nopI m f => exact exec_nopI hd (of_decide_eq_true hf)
  | ingest m f => exact absurd rfl (hi.2.2 m f)

/-- A read-only operation that answers a next state has driven its answer. -/
theorem exec_readOnly_next (hr : Running s) (hi : ReadOnly i) (he : exec i s = .next t) :
    ∃ st d, readAnswer i s = some (st, d) ∧ t = respond i.port st d s s := by
  obtain ⟨hd, hf⟩ := exec_next_ready hr he
  rw [exec_readOnly hi hd hf] at he
  cases hans : readAnswer i s with
  | none => simp [hans] at he
  | some a =>
    rw [hans] at he
    exact ⟨a.1, a.2, rfl, (Host.Outcome.next.inj he).symm⟩

theorem readAnswer_respond (p : Port) (st : Status) (d : Option Elem) (pre : State) :
    readAnswer i (respond p st d pre s) = readAnswer i s := rfl

/-- A response driven twice is the response driven once. -/
theorem respond_respond (p : Port) (st : Status) (d : Option Elem) (s : State) :
    respond p st d (respond p st d s s) (respond p st d s s) = respond p st d s s := by
  cases p <;> rfl

/-- A response is on its own port. -/
theorem respond_other_ports (p : Port) (st : Status) (d : Option Elem) (pre s : State) :
    (p ≠ .producer → (respond p st d pre s).resp.producer = s.resp.producer)
      ∧ (p ≠ .consumer → (respond p st d pre s).resp.consumer = s.resp.consumer)
      ∧ (p ≠ .ingest → (respond p st d pre s).resp.ingest = s.resp.ingest) := by
  cases p <;> simp [respond]

/-! ### Completion (R191) -/

/-- In the invariant the head that the consumer's view admits has a value (R37, R59). -/
theorem BlockInv.not_readsUnwritten (h : BlockInv s) (hr : Running s) (i : Instr) : ¬ ReadsUnwritten i s := by
  rintro ⟨-, hc, hnone⟩
  obtain ⟨e, he, -⟩ := contents_take h hr hc
  simp [hnone] at he

theorem BlockInv.exec_completes (h : BlockInv s) (hr : Running s) (hw : i.wellFormed s.build = true) :
    ∃ t, Machine.exec i s = .next t ∧ BlockInv t ∧ Running t := by
  obtain ⟨hp, hf⟩ : s.build.hasPort i.port = true ∧ i.fits s.build = true := by simpa [Instr.wellFormed] using hw
  obtain ⟨t, ht⟩ := Machine.exec_completes (Live.ready ⟨h, hr, hp⟩) hf (h.not_readsUnwritten hr i)
  exact ⟨t, ht, h.exec ht, (exec_surroundings hr ht).2.1⟩

end Sys2Proof.Machine
end

section
/-! SUPPORT. A PUSH or INGEST and a POP in one SYNC cycle (R57): what each does alone, and each after the other. -/

namespace Sys2Proof.Machine

variable {s t u w : State} {i : Instr}

/-- The operations that may store an element. -/
def MayStore (i : Instr) : Prop := (∃ v, i = .push v) ∨ ∃ h f, i = .ingest h f

theorem MayStore.port_ne_consumer (hi : MayStore i) : i.port ≠ .consumer := by
  rcases hi with ⟨v, rfl⟩ | ⟨h, f, rfl⟩ <;> simp [Instr.port]

/-! ### A PUSH or INGEST -/

/-- In SYNC mode such an operation writes the slots, `pushed`, the event counters and its response. -/
theorem exec_mayStore_frame (hr : Running s) (hk : s.build.clocking = .sync) (hi : MayStore i)
    (he : exec i s = .next u) :
    u = { s with slots := u.slots, pushed := u.pushed, seq := u.seq, dropCount := u.dropCount, resp := u.resp } := by
  rcases exec_cases hr he with ⟨st, d, rfl, -⟩ | ⟨v, -, -, -, rfl⟩ | ⟨e, rfl, -⟩ | ⟨f, -, -, rfl⟩ | ⟨f, -, -, -, rfl⟩
  · rfl
  · simp [State.store, State.setPushed, hk, respond]
  · exact absurd rfl hi.port_ne_consumer
  · rfl
  · simp [State.store, State.setPushed, hk, respond]

/-- R102, R143, R161: on a ring that its side sees as full, a PUSH reports FULL and an INGEST counts the drop. -/
theorem exec_mayStore_full (hr : Running s) (hfull : s.pCount = s.cap) (he : exec i s = .next u) :
    (∀ v, i = .push v → u.resp.producer.map (·.status) = some .full ∧ u.pushed = s.pushed)
      ∧ ∀ f, i = .ingest true f → u.resp.ingest.map (·.status) = some .full ∧ u.pushed = s.pushed
          ∧ u.seq = s.seq + 1 ∧ u.dropCount = s.dropCount + 1 := by
  obtain ⟨hd, hf⟩ := exec_next_ready hr he
  refine ⟨?_, ?_⟩
  · rintro v rfl
    rw [exec_push hd (of_decide_eq_true hf), if_pos hfull] at he
    cases he
    exact ⟨rfl, rfl⟩
  · rintro f rfl
    rw [exec_ingest hd (of_decide_eq_true hf), if_pos hfull] at he
    cases he
    exact ⟨rfl, rfl, rfl, rfl⟩

/-- R102, R143: where its side sees room, a PUSH or INGEST stores. -/
theorem exec_mayStore_room (hr : Running s) (hroom : s.pCount ≠ s.cap) (he : exec i s = .next u) :
    (∀ v, i = .push v → u.resp.producer.map (·.status) = some .ok ∧ u.pushed = inc s.cap s.pushed)
      ∧ ∀ f, i = .ingest true f → u.resp.ingest.map (·.status) = some .ok ∧ u.pushed = inc s.cap s.pushed
          ∧ u.seq = s.seq + 1 ∧ u.dropCount = s.dropCount := by
  obtain ⟨hd, hf⟩ := exec_next_ready hr he
  refine ⟨?_, ?_⟩
  · rintro v rfl
    rw [exec_push hd (of_decide_eq_true hf), if_neg hroom] at he
    cases he
    exact ⟨rfl, by simp⟩
  · rintro f rfl
    rw [exec_ingest hd (of_decide_eq_true hf), if_neg hroom] at he
    cases he
    exact ⟨rfl, by simp [State.cap], by simp, by simp⟩

/-- R143: an INGEST with no message writes nothing. -/
theorem exec_ingest_noMessage {f : Nat} (hr : Running s) (he : exec (.ingest false f) s = .next u) :
    u.resp.ingest.map (·.status) = some .emptyOrNoMessage ∧ u.pushed = s.pushed ∧ u.seq = s.seq
      ∧ u.dropCount = s.dropCount := by
  obtain ⟨hd, hf⟩ := exec_next_ready hr he
  rw [exec_ingest_none hd (of_decide_eq_true hf)] at he
  cases he
  exact ⟨rfl, rfl, rfl, rfl⟩

/-- Where its side sees room, what such an operation writes does not depend on `popped`. -/
theorem exec_mayStore_of_popped {q : Nat} {r : Responses} (hr : Running s) (hi : MayStore i) (hroom : s.pCount ≠ s.cap)
    (hroom' : State.pCount { s with popped := q, resp := r } ≠ s.cap) (he : exec i s = .next u)
    (he' : exec i { s with popped := q, resp := r } = .next t) :
    t.slots = u.slots ∧ t.pushed = u.pushed ∧ t.popped = q ∧ t.seq = u.seq ∧ t.dropCount = u.dropCount := by
  obtain ⟨hd, hf⟩ := exec_next_ready hr he
  obtain ⟨hd', -⟩ := exec_next_ready (s := { s with popped := q, resp := r }) hr he'
  rcases hi with ⟨v, rfl⟩ | ⟨h, f, rfl⟩
  · rw [exec_push hd (of_decide_eq_true hf), if_neg hroom] at he
    rw [exec_push hd' (of_decide_eq_true hf)] at he'
    cases he
    cases (if_neg hroom').symm.trans he'
    simp [State.cap]
  · cases h with
    | false =>
      rw [exec_ingest_none hd (of_decide_eq_true hf)] at he
      rw [exec_ingest_none hd' (of_decide_eq_true hf)] at he'
      cases he
      cases he'
      simp
    | true =>
      rw [exec_ingest hd (of_decide_eq_true hf), if_neg hroom] at he
      rw [exec_ingest hd' (of_decide_eq_true hf)] at he'
      cases he
      cases (if_neg hroom').symm.trans he'
      simp [State.cap, nextStamp]

/-! ### A POP -/

/-- In SYNC mode a POP writes `popped` and its response. -/
theorem exec_pop_frame (hr : Running s) (hk : s.build.clocking = .sync) (he : exec .pop s = .next w) :
    w = { s with popped := w.popped, resp := w.resp } := by
  rcases exec_cases hr he with ⟨st, d, rfl, -⟩ | ⟨v, hi, -⟩ | ⟨e, -, -, -, rfl⟩ | ⟨f, hi, -⟩ | ⟨f, hi, -⟩
  · rfl
  · simp at hi
  · rw [take_sync hk]
    rfl
  · simp at hi
  · simp at hi

/-- R122: a POP of a ring that the consumer sees as empty reports it. -/
theorem exec_pop_empty (hr : Running s) (hc : s.cCount = 0) (he : exec .pop s = .next w) :
    w.resp.consumer.map (·.status) = some .emptyOrNoMessage ∧ w.popped = s.popped := by
  rw [exec_pop (exec_next_ready hr he).1, if_pos hc] at he
  cases he
  exact ⟨rfl, rfl⟩

/-- R122: a POP of a ring with an element that the consumer sees takes it. -/
theorem exec_pop_ok (hr : Running s) (hc : s.cCount ≠ 0) (he : exec .pop s = .next w) :
    w.resp.consumer.map (·.status) = some .ok ∧ w.popped = inc s.cap s.popped := by
  rw [exec_pop (exec_next_ready hr he).1, if_neg hc] at he
  split at he
  · simp at he
  · cases he
    exact ⟨rfl, by simp⟩

theorem wellFormed_pop (b : Build) : Instr.pop.wellFormed b = true := rfl

theorem decode_pop (b : Build) : decode b .consumer 1 = .ok .pop := rfl

/-! ### The two orders (R57) -/

/-- R57: a request and a POP in one SYNC cycle each do what they do alone. -/
theorem runSameCycle_pop {word : Nat} (hk : s.build.clocking = .sync)
    (hdec : decode s.build (portOf s.build .producer) word = .ok i) (hu : exec i s = .next u)
    (hw : exec .pop s = .next w) : runSameCycle word 1 s = .next (mergeCycle u w) := by
  simp [runSameCycle, hk, runRequest_ok hdec, runRequest_ok (decode_pop s.build), hu, hw]

/-- Where the ring is not empty, the merged state is that of the POP after the other operation. -/
theorem sameRing_pop_last (h : BlockInv s) (hr : Running s) (hk : s.build.clocking = .sync) (hi : MayStore i)
    (hu : exec i s = .next u) (hw : exec .pop s = .next w) (ho : 0 < s.occupancy) :
    ∃ x, exec .pop u = .next x ∧ SameRing (mergeCycle u w) x := by
  obtain ⟨hbuild, hru, -⟩ := exec_surroundings hr hu
  have hku : u.build.clocking = .sync := hbuild ▸ hk
  obtain ⟨hpopped, hocc⟩ := exec_other_popped h hr hi.port_ne_consumer hu
  obtain ⟨x, hx, -, -⟩ := (h.exec hu).exec_completes hru (wellFormed_pop _)
  have hc := (sync_counts hk).2
  have hcu := (sync_counts hku).2
  have hwpopped := (exec_pop_ok hr (by omega) hw).2
  have hxpopped := (exec_pop_ok hru (by omega) hx).2
  have hcap : u.cap = s.cap := congrArg Build.capacity hbuild
  rw [hcap, hpopped, ← hwpopped] at hxpopped
  refine ⟨x, hx, ?_⟩
  rw [exec_pop_frame hru hku hx, hxpopped]
  exact ⟨rfl, rfl, rfl, rfl, rfl⟩

/-- A POP adds nothing to the occupancy. -/
theorem exec_pop_occupancy (h : BlockInv s) (hr : Running s) (hw : exec .pop s = .next w) :
    w.occupancy ≤ s.occupancy := by
  rcases exec_cases hr hw with ⟨st, d, rfl, -⟩ | ⟨v, hi, -⟩ | ⟨e, -, hc, -, rfl⟩ | ⟨f, hi, -⟩ | ⟨f, hi, -⟩
  · exact Nat.le_refl _
  · simp at hi
  · have htake := take_occupancy h hr hc
    rw [respond_occupancy]
    omega
  · simp at hi
  · simp at hi

/-- Where the ring is not full, the merged state is that of the other operation after the POP. -/
theorem sameRing_pop_first (h : BlockInv s) (hr : Running s) (hk : s.build.clocking = .sync) (hi : MayStore i)
    (hu : exec i s = .next u) (hw : exec .pop s = .next w) (ho : s.occupancy < s.cap) :
    ∃ x, exec i w = .next x ∧ SameRing (mergeCycle u w) x := by
  obtain ⟨hbuild, hrw, -⟩ := exec_surroundings hr hw
  obtain ⟨⟨-, hp, -⟩, hf⟩ := exec_next_ready hr hu
  have hfit : i.wellFormed w.build = true := by simp [Instr.wellFormed, hbuild, hp, hf]
  obtain ⟨x, hx, -, -⟩ := (h.exec hw).exec_completes hrw hfit
  have hroom : s.pCount ≠ s.cap := by
    rw [(sync_counts hk).1]
    omega
  have hroom' : w.pCount ≠ s.cap := by
    have hocc := exec_pop_occupancy h hr hw
    rw [(sync_counts (hbuild ▸ hk)).1]
    omega
  have hframe := exec_pop_frame hr hk hw
  refine ⟨x, hx, ?_⟩
  rw [hframe] at hroom' hx
  obtain ⟨hslots, hpushed, hpopped, hseq, hdrop⟩ := exec_mayStore_of_popped hr hi hroom hroom' hu hx
  exact ⟨hslots.symm, hpushed.symm, hpopped.symm, hseq.symm, hdrop.symm⟩

end Sys2Proof.Machine
end

section
/-! PROOFS. The obligations of the family 20_memory.md. -/

namespace Sys2Proof.Proofs.MemoryFamily

open Sys2Proof Sys2Proof.Machine

/-- Settles O52: while the counter stays a side's lag never rises, and fairness makes it fall until it is 0; in
registers each edge after the first fills one stage more with the counter's code. -/
theorem viewsReachAStoppedCounter : Obligations.ViewsReachAStoppedCounter := by
  refine ⟨fun schedule run n hfair h hk hr => ?_, fun l s t h hr hk hn => ⟨fun he => ?_, fun he => ?_⟩⟩
  · obtain ⟨hrun, hproducer, hconsumer⟩ := hfair
    exact ⟨view_reaches_stopped_counter hrun hproducer h hk hr, view_reaches_stopped_counter hrun hconsumer h hk hr⟩
  · exact edges_reach_counter (d := .producer) h hr hk hn he
  · exact edges_reach_counter (d := .consumer) h hr hk hn he

/-- Settles O6: `idx` on the lower and on the upper half of the counter range. -/
theorem slotIndexOccursExactlyTwice : Obligations.SlotIndexOccursExactlyTwice := by
  intro C i x hi hx
  unfold idx
  split <;> omega

/-- Settles O7: by induction on the width, on from an even value and on from an odd one. -/
theorem grayNeighboursDifferInOneBit : Obligations.GrayNeighboursDifferInOneBit :=
  fun _ _ hw hx => gray_neighbours hw hx

/-- Settles O8: the recursion of `bin` read bit by bit, and no bit above its width. -/
theorem grayDecodingInvertsGray : Obligations.GrayDecodingInvertsGray :=
  fun _ _ hg => ⟨testBit_bin_top hg, fun j _ => testBit_bin hg j, bin_gray hg⟩

/-- Settles O32: such an operation drives its answer, and a response is on its own port. -/
theorem readOnlyOperationsChangeOnlyTheirResponse : Obligations.ReadOnlyOperationsChangeOnlyTheirResponse := by
  intro i s t hr hpush hpop hingest he
  obtain ⟨st, d, -, rfl⟩ := exec_readOnly_next hr ⟨hpush, hpop, hingest⟩ he
  exact ⟨rfl, respond_other_ports i.port st d s s⟩

/-- Settles O35: the answer does not depend on a response, and drives the same response again. -/
theorem readsAreIdempotent : Obligations.ReadsAreIdempotent := by
  intro i s t hr hpush hpop hingest he
  have hi : ReadOnly i := ⟨hpush, hpop, hingest⟩
  obtain ⟨hd, hf⟩ := exec_next_ready hr he
  obtain ⟨st, d, hans, rfl⟩ := exec_readOnly_next hr hi he
  have hagain := exec_readOnly (s := respond i.port st d s s) hi hd hf
  rw [readAnswer_respond, hans] at hagain
  exact hagain.trans (congrArg _ (respond_respond i.port st d s))

/-- Settles O40: a live port is ready, and no head that the consumer's view admits is without a value. -/
theorem everyPresentOperationCompletes : Obligations.EveryPresentOperationCompletes :=
  fun _ _ h hr hw => h.exec_completes hr hw

/-- Settles O48: on a full ring the POP goes last, on an empty one first, and in between either order does. -/
theorem sameCycleEqualsASequentialOrder : Obligations.SameCycleEqualsASequentialOrder := by
  intro word i s h hr hk hdec hi
  obtain ⟨u, hu, -, -⟩ := h.exec_completes hr (decode_wellFormed hdec)
  obtain ⟨w, hw, -, -⟩ := h.exec_completes hr (wellFormed_pop _)
  obtain ⟨hcountP, hcountC⟩ := sync_counts hk
  have hinv := h
  obtain ⟨hl, -, hp, hq, -⟩ := hinv
  have hcap : 1 ≤ s.cap := (legal_facts hl).1
  refine ⟨mergeCycle u w, u, w, runSameCycle_pop hk hdec hu hw, hu, hw, ?_, fun hfull => ?_, fun hempty => ?_,
    fun hsome hroom => ?_, ?_⟩
  · rw [exec_mayStore_frame hr hk hi hu]
    rfl
  · obtain ⟨hpush, hingest⟩ := exec_mayStore_full hr (hcountP.trans hfull) hu
    obtain ⟨hstatus, hpopped⟩ := exec_pop_ok hr (by omega) hw
    exact ⟨hpush, hingest, hstatus, hpopped, sameRing_pop_last h hr hk hi hu hw (by omega)⟩
  · obtain ⟨hpush, hingest⟩ := exec_mayStore_room hr (by omega) hu
    obtain ⟨hstatus, hpopped⟩ := exec_pop_empty hr (hcountC.trans hempty) hw
    exact ⟨hpush, hingest, hstatus, hpopped, sameRing_pop_first h hr hk hi hu hw (by omega)⟩
  · obtain ⟨hpush, hingest⟩ := exec_mayStore_room hr (by omega) hu
    obtain ⟨hstatus, hpopped⟩ := exec_pop_ok hr (by omega) hw
    have hslots : idx s.cap s.popped ≠ idx s.cap s.pushed := idx_advance_ne hp hq hroom hsome
    exact ⟨hpush, hingest, hstatus, hpopped, hslots.symm, sameRing_pop_last h hr hk hi hu hw hsome,
      sameRing_pop_first h hr hk hi hu hw hroom⟩
  · rintro f rfl
    have hnone := exec_ingest_noMessage hr hu
    exact hnone

/-- Settles O50: one law for both sides; the state it answers differs in the side's own chain. -/
theorem syncStepMovesTheViewForward : Obligations.SyncStepMovesTheViewForward := by
  intro k s h hr hk
  refine ⟨fun h1 hlag => ?_, fun h1 hlag => ?_, fun hbad => ?_, fun hbad => ?_⟩
  · obtain ⟨h', hs, hview, hback⟩ := h.syncStep_moves (d := .producer) hr hk h1 hlag
    exact ⟨_, hs, hview, hback, rfl⟩
  · obtain ⟨h', hs, hview, hback⟩ := h.syncStep_moves (d := .consumer) hr hk h1 hlag
    exact ⟨_, hs, hview, hback, rfl⟩
  · exact h.syncStep_refused (d := .producer) hr hk hbad
  · exact h.syncStep_refused (d := .consumer) hr hk hbad

/-- Settles O51: the shift leaves the view no further behind a counter that stayed. -/
theorem registerEdgesObeyTheViewLaws : Obligations.RegisterEdgesObeyTheViewLaws := by
  intro bits late s t h hr hk
  refine ⟨fun he => ?_, fun he => ?_⟩
  · obtain ⟨hother, hown⟩ := h.runEdge_views hr hk he
    exact ⟨hother .consumer (by decide), hown⟩
  · obtain ⟨hother, hown⟩ := h.runEdge_views hr hk he
    exact ⟨hother .producer (by decide), hown⟩

/-- Settles O53: the old code lags by one step at most, and neighbours' codes differ in one bit. -/
theorem sampleIsTheOldOrTheNewCode : Obligations.SampleIsTheOldOrTheNewCode := by
  intro s h hr hk
  refine ⟨⟨h.capture_head_reg hr hk .producer, h.capture_head_old hr hk .producer⟩,
    ⟨h.capture_head_reg hr hk .consumer, h.capture_head_old hr hk .consumer⟩, fun i t he => ⟨fun hmoved => ?_,
    fun hmoved => ?_⟩⟩
  · exact h.capture_head_after (d := .producer) hr hk he hmoved
  · exact h.capture_head_after (d := .consumer) hr hk he hmoved

/-- Settles O54: what the consumer counts is within the occupancy, and the live slots have values. -/
theorem seenPositionsAreReadable : Obligations.SeenPositionsAreReadable := by
  intro s k h hr hk
  obtain ⟨-, -, -, hcount⟩ := view_facts h hr
  obtain ⟨-, hlive⟩ := h.runningInv hr
  obtain ⟨-, hwf, -⟩ := h
  obtain ⟨e, he⟩ := Option.isSome_iff_exists.mp (hlive k (by omega))
  obtain ⟨-, hwidth⟩ := Memory.read_bound hwf he
  exact ⟨e, he, hwidth⟩

end Sys2Proof.Proofs.MemoryFamily
end

section
/-! SUPPORT. The request words (R80 to R83): what the decoder reads from a word of a present port, and that reading and
encoding undo each other. -/

namespace Sys2Proof

variable {b : Build} {p : Port} {i : Instr} {n v w : Nat}

/-! ### The fields of a request word (R8) -/

theorem bitField_lt (w hi lo : Nat) : bitField w hi lo < 2 ^ (hi + 1 - lo) := Nat.mod_lt _ (Nat.two_pow_pos _)

/-- The last of the four codes of a 2-bit operation field. -/
theorem bitField_op_eq_three (h0 : bitField w 1 0 ≠ 0) (h1 : bitField w 1 0 ≠ 1) (h2 : bitField w 1 0 ≠ 2) :
    bitField w 1 0 = 3 := by
  have hlt : bitField w 1 0 < 4 := bitField_lt w 1 0
  omega

theorem bitField_op (v : Nat) {k : Nat} (hk : k < 4) : bitField (concatBits v 2 k) 1 0 = k := by
  simp only [bitField, concatBits]
  omega

theorem bitField_operand {k : Nat} (hv : v < 2 ^ n) (hk : k < 4) : bitField (concatBits v 2 k) (n + 1) 2 = v := by
  have hdiv : concatBits v 2 k / 2 ^ 2 = v := by
    unfold concatBits
    omega
  rw [bitField, hdiv]
  exact Nat.mod_eq_of_lt hv

theorem concatBits_operand_op (hw : w < 2 ^ (n + 2)) :
    concatBits (bitField w (n + 1) 2) 2 (bitField w 1 0) = w := by
  have hdiv : w / 4 < 2 ^ n := by
    rw [Nat.pow_add] at hw
    omega
  have hoperand : bitField w (n + 1) 2 = w / 4 := Nat.mod_eq_of_lt hdiv
  rw [hoperand, concatBits, bitField]
  omega

theorem bitField_ingestOp (f : Nat) (h : Bool) {k : Nat} (hk : k < 2) :
    bitField (concatBits f 2 (concatBits (bitOf h) 1 k)) 0 0 = k := by
  simp only [bitField, concatBits]
  omega

theorem bitField_hasPending (f : Nat) (h : Bool) {k : Nat} (hk : k < 2) :
    bitField (concatBits f 2 (concatBits (bitOf h) 1 k)) 1 1 = bitOf h := by
  have hbit : bitOf h < 2 := by cases h <;> decide
  simp only [bitField, concatBits]
  omega

theorem concatBits_hasPending_op (w : Nat) : concatBits (bitField w 1 1) 1 (bitField w 0 0) = bitField w 1 0 := by
  simp only [bitField, concatBits]
  omega

theorem bitOf_beq_one (h : Bool) : (bitOf h == 1) = h := by cases h <;> rfl

theorem bitOf_of_lt {k : Nat} (hk : k < 2) : bitOf (k == 1) = k := by
  obtain rfl | rfl : k = 0 ∨ k = 1 := by omega
  · rfl
  · rfl

/-! ### Decoding as reading (R81 to R83) -/

/-- What the word on a present port says. -/
def readRequest (b : Build) (p : Port) (w : Nat) : Instr :=
  match p with
  | .producer => decodeProducer b w
  | .consumer => decodeConsumer w
  | .ingest => decodeIngest b w

theorem decode_absent (hp : b.hasPort p = false) : decode b p w = .rejected .portAbsent := by
  simp [decode, hp]

theorem decode_tooWide (hp : b.hasPort p = true) (hw : 2 ^ b.requestWidth p ≤ w) :
    decode b p w = .rejected .requestTooWide := by
  simp [decode, hp, hw]

theorem decode_present (hp : b.hasPort p = true) (hw : w < 2 ^ b.requestWidth p) :
    decode b p w = .ok (readRequest b p w) := by
  cases p <;> simp [decode, hp, Nat.not_le.mpr hw, readRequest]

theorem decode_eq_ok (h : decode b p w = .ok i) :
    b.hasPort p = true ∧ w < 2 ^ b.requestWidth p ∧ i = readRequest b p w := by
  cases hp : b.hasPort p with
  | false => simp [decode_absent hp] at h
  | true =>
    by_cases hw : w < 2 ^ b.requestWidth p
    · rw [decode_present hp hw] at h
      exact ⟨rfl, hw, (DecodeResult.ok.inj h).symm⟩
    · simp [decode_tooWide hp (Nat.not_lt.mp hw)] at h

/-! ### Reading and encoding undo each other -/

theorem encode_lt (i : Instr) (hi : i.wellFormed b = true) : encode i < 2 ^ b.requestWidth i.port := by
  cases i with
  | nopP v => exact Laws.EncodeFits.nopP v b hi
  | push v => exact Laws.EncodeFits.push v b hi
  | pendingP v => exact Laws.EncodeFits.pendingP v b hi
  | illegalP v => exact Laws.EncodeFits.illegalP v b hi
  | nopC => exact Laws.EncodeFits.nopC b hi
  | pop => exact Laws.EncodeFits.pop b hi
  | peek => exact Laws.EncodeFits.peek b hi
  | pendingC => exact Laws.EncodeFits.pendingC b hi
  | nopI h f => exact Laws.EncodeFits.nopI h f b hi
  | ingest h f => exact Laws.EncodeFits.ingest h f b hi

theorem readRequest_encode (hi : i.fits b = true) : readRequest b i.port (encode i) = i := by
  cases i with
  | nopP v | push v | pendingP v | illegalP v =>
    have hv : v < 2 ^ b.width := of_decide_eq_true hi
    simp [readRequest, encode, Instr.port, decodeProducer, bitField_op, bitField_operand hv]
  | nopC | pop | peek | pendingC => rfl
  | nopI h f | ingest h f =>
    have hf : f < 2 ^ b.frameWidth := of_decide_eq_true hi
    simp [readRequest, encode, Instr.port, decodeIngest, bitField_ingestOp, bitField_hasPending, bitOf_beq_one,
      bitField_operand hf, Laws.EncodeFits.ingest_low_lt]

theorem encode_decodeProducer (b : Build) (w : Nat) :
    encode (decodeProducer b w) = concatBits (bitField w (b.width + 1) 2) 2 (bitField w 1 0) := by
  unfold decodeProducer
  split
  case h_1 hop | h_2 hop | h_3 hop =>
    rw [hop]
    rfl
  case h_4 h0 h1 h2 =>
    rw [bitField_op_eq_three h0 h1 h2]
    rfl

theorem encode_decodeConsumer (w : Nat) : encode (decodeConsumer w) = bitField w 1 0 := by
  unfold decodeConsumer
  split
  case h_1 hop | h_2 hop | h_3 hop =>
    rw [hop]
    rfl
  case h_4 h0 h1 h2 =>
    rw [bitField_op_eq_three h0 h1 h2]
    rfl

theorem encode_decodeIngest (b : Build) (w : Nat) :
    encode (decodeIngest b w) = concatBits (bitField w (b.frameWidth + 1) 2) 2 (bitField w 1 0) := by
  have hpending := bitOf_of_lt (bitField_lt w 1 1)
  rw [← concatBits_hasPending_op]
  unfold decodeIngest
  split
  case h_1 h0 => simp only [encode, hpending, h0]
  case h_2 h0 =>
    have h1 : bitField w 0 0 = 1 := (Nat.mod_two_eq_zero_or_one _).resolve_left h0
    simp only [encode, hpending, h1]

theorem encode_readRequest (hw : w < 2 ^ b.requestWidth p) : encode (readRequest b p w) = w := by
  cases p with
  | producer => exact (encode_decodeProducer b w).trans (concatBits_operand_op hw)
  | consumer =>
    have hw : w < 4 := hw
    have hop : bitField w 1 0 = w := by
      unfold bitField
      omega
    exact (encode_decodeConsumer w).trans hop
  | ingest => exact (encode_decodeIngest b w).trans (concatBits_operand_op hw)

end Sys2Proof
end

section
/-! SUPPORT. What each operation may answer on its port (R84, R85), and what an agent keeps of it (R89, R90). -/

namespace Sys2Proof.Machine

variable {s t : State} {i : Instr} {st : Status} {d : Option Elem}

/-! ### Answers (R84, R85) -/

/-- The status and data an operation may answer with, out of reset (R101 to R104, R121 to R124, R142, R143). -/
def MayAnswer (i : Instr) (st : Status) (d : Option Elem) : Prop :=
  match i with
  | .push _ => (st = .ok ∨ st = .full) ∧ d = none
  | .illegalP _ => st = .illegal ∧ d = none
  | .pop => st = .emptyOrNoMessage ∧ d = none ∨ st = .ok ∧ d.isSome = true
  | .peek => st = .emptyOrNoMessage ∧ d = none ∨ st = .ok ∧ d.isSome = true
  | .ingest true _ => (st = .ok ∨ st = .full) ∧ d = none
  | .ingest false _ => st = .emptyOrNoMessage ∧ d = none
  | .nopP _ => st = .ok ∧ d = none
  | .pendingP _ => st = .ok ∧ d = none
  | .nopC => st = .ok ∧ d = none
  | .pendingC => st = .ok ∧ d = none
  | .nopI _ _ => st = .ok ∧ d = none

theorem mayAnswer_of_readAnswer (hi : ReadOnly i) (h : readAnswer i s = some (st, d)) : MayAnswer i st d := by
  obtain ⟨hpush, hpop, hingest⟩ := hi
  cases i with
  | push v => exact absurd rfl (hpush v)
  | pop => exact absurd rfl hpop
  | ingest m f => exact absurd rfl (hingest m f)
  | peek =>
    by_cases hc : s.cCount = 0
    · rw [readAnswer, if_pos hc] at h
      obtain ⟨rfl, rfl⟩ := Prod.mk.inj (Option.some.inj h)
      exact .inl ⟨rfl, rfl⟩
    · rw [readAnswer, if_neg hc] at h
      obtain ⟨e, -, he⟩ := Option.map_eq_some_iff.mp h
      obtain ⟨rfl, rfl⟩ := Prod.mk.inj he
      exact .inr ⟨rfl, rfl⟩
  | nopP v | pendingP v | illegalP v | nopC | pendingC | nopI m f =>
    obtain ⟨rfl, rfl⟩ := Prod.mk.inj (Option.some.inj h)
    exact ⟨rfl, rfl⟩

theorem exec_readOnly_answers (hr : Running s) (hi : ReadOnly i) (h : exec i s = .next t) :
    ∃ st d post, t = respond i.port st d s post ∧ MayAnswer i st d := by
  obtain ⟨st, d, hans, ht⟩ := exec_readOnly_next hr hi h
  exact ⟨st, d, s, ht, mayAnswer_of_readAnswer hi hans⟩

/-- Out of reset an operation drives its own port's response, from the state before the edge. -/
theorem exec_answers (hr : Running s) (h : exec i s = .next t) :
    ∃ st d post, t = respond i.port st d s post ∧ MayAnswer i st d := by
  obtain ⟨hd, hf⟩ := exec_next_ready hr h
  cases i with
  | push v =>
    rw [exec_push hd (of_decide_eq_true hf)] at h
    split at h
    · exact ⟨_, _, _, (Host.Outcome.next.inj h).symm, .inr rfl, rfl⟩
    · exact ⟨_, _, _, (Host.Outcome.next.inj h).symm, .inl rfl, rfl⟩
  | pop =>
    rw [exec_pop hd] at h
    split at h
    · exact ⟨_, _, _, (Host.Outcome.next.inj h).symm, .inl ⟨rfl, rfl⟩⟩
    split at h
    · simp at h
    · exact ⟨_, _, _, (Host.Outcome.next.inj h).symm, .inr ⟨rfl, rfl⟩⟩
  | ingest m f =>
    cases m with
    | false =>
      rw [exec_ingest_none hd (of_decide_eq_true hf)] at h
      exact ⟨_, _, _, (Host.Outcome.next.inj h).symm, rfl, rfl⟩
    | true =>
      rw [exec_ingest hd (of_decide_eq_true hf)] at h
      split at h
      · exact ⟨_, _, _, (Host.Outcome.next.inj h).symm, .inr rfl, rfl⟩
      · exact ⟨_, _, _, (Host.Outcome.next.inj h).symm, .inl rfl, rfl⟩
  | nopP v | pendingP v | illegalP v | nopC | peek | pendingC | nopI m f =>
    exact exec_readOnly_answers hr ⟨by simp, by simp, by simp⟩ h

/-- R84: the outputs in a response are those of the state before the edge. -/
theorem respond_reads (p : Port) (st : Status) (d : Option Elem) (pre post : State) :
    (p = .producer →
        ∃ r, (respond p st d pre post).resp.producer = some r ∧ r.count = pre.pCount ∧ r.full = pre.pFull)
      ∧ (p = .consumer →
        ∃ r, (respond p st d pre post).resp.consumer = some r ∧ r.count = pre.cCount ∧ r.empty = pre.cEmpty)
      ∧ (p = .ingest →
        ∃ r, (respond p st d pre post).resp.ingest = some r ∧ r.seq = pre.seq ∧ r.drops = pre.dropCount) := by
  cases p <;> simp

theorem MayAnswer.producer_codes (h : MayAnswer i st d) (hi : i.port = .producer) :
    (st.code = 0 ∨ st.code = 1 ∨ st.code = 3) ∧ (st.code = 3 ↔ ∃ v, i = .illegalP v) := by
  cases i with
  | nopP v | pendingP v | illegalP v =>
    obtain ⟨rfl, -⟩ := h
    simp [Status.code]
  | push v =>
    obtain ⟨rfl | rfl, -⟩ := h
    · simp [Status.code]
    · simp [Status.code]
  | nopC | pop | peek | pendingC | nopI m f | ingest m f => cases hi

theorem MayAnswer.consumer_codes (h : MayAnswer i st d) (hi : i.port = .consumer) :
    (st.code = 0 ∨ st.code = 2) ∧ (d.isSome = true → st.code = 0 ∧ (i = .pop ∨ i = .peek)) := by
  cases i with
  | nopC | pendingC =>
    obtain ⟨rfl, rfl⟩ := h
    simp [Status.code]
  | pop | peek =>
    obtain ⟨rfl, rfl⟩ | ⟨rfl, -⟩ := h
    · simp [Status.code]
    · simp [Status.code]
  | nopP v | push v | pendingP v | illegalP v | nopI m f | ingest m f => cases hi

theorem MayAnswer.ingest_codes (h : MayAnswer i st d) (hi : i.port = .ingest) :
    st.code = 0 ∨ st.code = 1 ∨ st.code = 2 := by
  cases i with
  | nopI m f =>
    obtain ⟨rfl, -⟩ := h
    exact .inl rfl
  | ingest m f =>
    cases m with
    | false =>
      obtain ⟨rfl, -⟩ := h
      exact .inr (.inr rfl)
    | true =>
      obtain ⟨rfl | rfl, -⟩ := h
      · exact .inl rfl
      · exact .inr (.inl rfl)
  | nopP v | push v | pendingP v | illegalP v | nopC | pop | peek | pendingC => cases hi

/-- Only POP and PEEK answer with data. -/
theorem MayAnswer.data_eq_none (h : MayAnswer i st d) (hpop : i ≠ .pop) (hpeek : i ≠ .peek) : d = none := by
  cases i with
  | pop => exact absurd rfl hpop
  | peek => exact absurd rfl hpeek
  | ingest m f => cases m <;> exact h.2
  | nopP v | push v | pendingP v | illegalP v | nopC | pendingC | nopI m f => exact h.2

/-! ### What an agent keeps of a response (R89) -/

variable {a : Agent} {k : Nat} {pre post : State}

theorem agentStep_op (ha : s.agents[k]? = some a) (hs : a.scriptOnPort s.build = true) (hh : a.halted = false)
    (hl : a.script[a.ip]? = some (.op i)) (he : exec i s = .next t) :
    agentStep k s = .next (setAgent k (a.observe i t.resp) t) := by
  simp [agentStep, ha, hs, hh, hl, he]

theorem observe_keeps (i : Instr) (resp : Responses) (a : Agent) :
    (a.observe i resp).ip = a.ip + 1 ∧ (a.observe i resp).n = a.n ∧ (a.observe i resp).port = a.port
      ∧ (a.observe i resp).script = a.script ∧ (a.observe i resp).halted = a.halted := by
  unfold Agent.observe
  split <;> split <;> exact ⟨rfl, rfl, rfl, rfl, rfl⟩

theorem observe_st : (a.observe i (respond i.port st d pre post).resp).st = st := by
  cases i <;> rfl

/-- The status kept is the one the port's response carries. -/
theorem observe_st_eq_response (hresp : t = respond i.port st d pre post) :
    (i.port = .producer → t.resp.producer.map (·.status) = some (a.observe i t.resp).st)
      ∧ (i.port = .consumer → t.resp.consumer.map (·.status) = some (a.observe i t.resp).st)
      ∧ (i.port = .ingest → t.resp.ingest.map (·.status) = some (a.observe i t.resp).st) := by
  subst hresp
  rw [observe_st]
  cases hp : i.port <;> simp

theorem observe_cnt_pendingP {v : Elem} :
    (a.observe (.pendingP v) (respond .producer st d pre post).resp).cnt = pre.pCount := rfl

theorem observe_cnt_pendingC :
    (a.observe .pendingC (respond .consumer st d pre post).resp).cnt = pre.cCount := rfl

theorem observe_cnt_of_ne (hp : ∀ v, i ≠ .pendingP v) (hc : i ≠ .pendingC) :
    (a.observe i (respond i.port st d pre post).resp).cnt = a.cnt := by
  cases i with
  | pendingP v => exact absurd rfl (hp v)
  | pendingC => exact absurd rfl hc
  | nopP v | push v | illegalP v | nopC | pop | peek | nopI m f | ingest m f => rfl

theorem observe_log_pop :
    (a.observe .pop (respond .consumer st d pre post).resp).log = a.log ++ d.toList := rfl

theorem observe_log_of_ne (hi : i ≠ .pop) : (a.observe i (respond i.port st d pre post).resp).log = a.log := by
  cases i with
  | pop => exact absurd rfl hi
  | nopP v | push v | pendingP v | illegalP v | nopC | peek | pendingC | nopI m f | ingest m f => rfl

/-- Data in the consumer's response takes the place of what the agent kept. -/
theorem observe_dat (hi : i.port = .consumer) :
    (a.observe i (respond i.port st d pre post).resp).dat = (d <|> a.dat) := by
  cases i with
  | nopC | pop | peek | pendingC => cases d <;> rfl
  | nopP v | push v | pendingP v | illegalP v | nopI m f | ingest m f => cases hi

theorem observe_dat_none : (a.observe i (respond i.port st none pre post).resp).dat = a.dat := by
  cases i <;> rfl

/-! ### Agent-local steps (R90) -/

theorem agentStep_end (ha : s.agents[k]? = some a) (hs : a.scriptOnPort s.build = true) (hh : a.halted = false)
    (hl : a.script[a.ip]? = none) : agentStep k s = .next (setAgent k { a with halted := true } s) := by
  simp [agentStep, ha, hs, hh, hl]

theorem agentStep_halted (ha : s.agents[k]? = some a) (hs : a.scriptOnPort s.build = true) (hh : a.halted = true) :
    agentStep k s = .next s := by
  simp [agentStep, ha, hs, hh]

theorem agentStep_local {l : Line} (ha : s.agents[k]? = some a) (hs : a.scriptOnPort s.build = true)
    (hh : a.halted = false) (hl : a.script[a.ip]? = some l) (hlocal : ∀ i, l ≠ .op i) :
    agentStep k s = .next (setAgent k (a.localStep l) s) := by
  cases l with
  | op i => exact absurd rfl (hlocal i)
  | bOk L | bFull L | bEmpty L | bNoMsg L | setNCnt | setN m | decN | bZn L | bNz L | jmp L | halt =>
    simp [agentStep, ha, hs, hh, hl]

theorem localStep_frame (l : Line) (a : Agent) :
    a.localStep l = { a with ip := (a.localStep l).ip, n := (a.localStep l).n, halted := (a.localStep l).halted } := by
  cases l <;> rfl

theorem branch_eq {taken : Bool} {P : Prop} [Decidable P] (h : taken = true ↔ P) (L : Nat) :
    a.branch taken L = { a with ip := if P then L else a.ip + 1 } := by
  simp [Agent.branch, h]

theorem beq_emptyOrNoMessage (st : Status) : (st == .emptyOrNoMessage) = true ↔ st.code = 2 := by
  cases st <;> decide

end Sys2Proof.Machine
end

section
/-! PROOFS. The obligations of the family 30_encoding.md. -/

namespace Sys2Proof.Proofs.EncodingFamily

open Sys2Proof Sys2Proof.Machine

/-- Settles O1: the word of a well-formed request fits its port, and each of its fields is read back. -/
theorem encodedInstrDecodesBack : Obligations.EncodedInstrDecodesBack := by
  intro b i hi
  obtain ⟨hp, hf⟩ : b.hasPort i.port = true ∧ i.fits b = true := by simpa [Instr.wellFormed] using hi
  rw [decode_present hp (encode_lt i hi), readRequest_encode hf]

/-- Settles O2: a decoded word fits its port, and the fields read from such a word are all of its bits. -/
theorem decodedRequestEncodesBack : Obligations.DecodedRequestEncodesBack := by
  intro b p w i h
  obtain ⟨-, hw, rfl⟩ := decode_eq_ok h
  exact ⟨encode_readRequest hw, decode_port h, decode_wellFormed h⟩

/-- Settles O3: an absent port and a word too wide are the only rejections. -/
theorem presentPortDecodesEveryPattern : Obligations.PresentPortDecodesEveryPattern :=
  fun _ _ _ => ⟨fun hp hw => ⟨_, decode_present hp hw⟩, decode_absent, decode_tooWide⟩

/-- Settles O36: every operation responds from the state before the edge. -/
theorem responsesReadTheStateBeforeTheEdge : Obligations.ResponsesReadTheStateBeforeTheEdge := by
  intro i s t hr he
  obtain ⟨st, d, post, rfl, -⟩ := exec_answers hr he
  exact respond_reads i.port st d s post

/-- Settles O37: the codes of the statuses each operation of the port may answer with. -/
theorem eachPortDrivesOnlyItsOwnCodes : Obligations.EachPortDrivesOnlyItsOwnCodes := by
  intro i s t hr he
  obtain ⟨st, d, post, rfl, hans⟩ := exec_answers hr he
  refine ⟨fun r hp hresp => ?_, fun r hp hresp => ?_, fun r hp hresp => ?_⟩
  · rw [hp] at hresp
    obtain rfl := Option.some.inj hresp
    exact hans.producer_codes hp
  · rw [hp] at hresp
    obtain rfl := Option.some.inj hresp
    exact hans.consumer_codes hp
  · rw [hp] at hresp
    obtain rfl := Option.some.inj hresp
    exact hans.ingest_codes hp

/-- Settles O58: the agent keeps the status of the response its operation drove, and each other field of it only where
the operation is one that R89 names for it. -/
theorem agentStepPerformsItsOperation : Obligations.AgentStepPerformsItsOperation := by
  intro k a i s t ha hs hh hl hr he
  have hstep := agentStep_op ha hs hh hl he
  obtain ⟨-, -, -, -, hagents⟩ := exec_surroundings hr he
  rw [setAgent, hagents] at hstep
  obtain ⟨hip, hn, hport, hscript, hhalted⟩ := observe_keeps i t.resp a
  obtain ⟨st, d, post, rfl, hans⟩ := exec_answers hr he
  obtain ⟨hproducer, hconsumer, hingest⟩ := observe_st_eq_response (a := a) (rfl : respond i.port st d s post = _)
  refine ⟨_, hstep, hip, hn, hport, hscript, hhalted, hproducer, hconsumer, hingest, ?_, ?_, observe_cnt_of_ne, ?_,
    observe_log_of_ne, ?_, fun hpop hpeek => ?_⟩
  · rintro v rfl
    exact observe_cnt_pendingP
  · rintro rfl
    exact observe_cnt_pendingC
  · rintro rfl
    exact observe_log_pop
  · rintro (rfl | rfl)
    · exact observe_dat rfl
    · exact observe_dat rfl
  · obtain rfl := hans.data_eq_none hpop hpeek
    exact observe_dat_none

/-- Settles O59: such a step is the line's own change of the agent, and a branch moves the script position only. -/
theorem localStepsTouchOnlyTheirAgent : Obligations.LocalStepsTouchOnlyTheirAgent := by
  refine ⟨fun k a s ha hs => ⟨agentStep_end ha hs, agentStep_halted ha hs⟩, fun k a l s ha hs hh hl hlocal =>
    ⟨a.localStep l, agentStep_local ha hs hh hl hlocal, localStep_frame l a, ?_, ?_, ?_, ?_, ?_, ?_, ?_, ?_, ?_, ?_⟩⟩
  · rintro L rfl
    exact branch_eq beq_iff_eq L
  · rintro L rfl
    exact branch_eq beq_iff_eq L
  · rintro L (rfl | rfl)
    · exact branch_eq (beq_emptyOrNoMessage a.st) L
    · exact branch_eq (beq_emptyOrNoMessage a.st) L
  · rintro rfl
    rfl
  · rintro m rfl
    rfl
  · rintro rfl
    rfl
  · rintro L rfl
    exact branch_eq beq_iff_eq L
  · rintro L rfl
    exact branch_eq bne_iff_ne L
  · rintro L rfl
    rfl
  · rintro rfl
    rfl

/-- Settles O4: the words of the tables, decoded. -/
theorem writtenOutWordsDecode : Obligations.WrittenOutWordsDecode := by
  unfold Obligations.WrittenOutWordsDecode
  decide

end Sys2Proof.Proofs.EncodingFamily
end

section
/-! SUPPORT. The producer port (R100 to R105): the request words of its operations, the counts after a store, and a run
of PUSHes. -/

namespace Sys2Proof

theorem concatBits_two (v k : Nat) : concatBits v 2 k = 4 * v + k := by
  unfold concatBits
  omega

/-- R80 to R83: the word of a request that a port of the build can carry decodes to it. -/
theorem decode_of_encode_eq {b : Build} {i : Instr} {w : Nat} (hp : b.hasPort i.port = true) (hf : i.fits b = true)
    (hw : encode i = w) : decode b i.port w = .ok i :=
  hw ▸ Proofs.EncodingFamily.encodedInstrDecodesBack b i (by simp [Instr.wellFormed, hp, hf])

end Sys2Proof

namespace Sys2Proof.Machine

variable {s t u : State} {e : Event} {v : Elem}

/-! ### The flags as comparisons of the counts (R27, R28) -/

theorem pFull_of_pCount {n : Nat} (h : s.pCount = n) : s.pFull = (n == s.cap) := h ▸ rfl

theorem cEmpty_of_cCount {n : Nat} (h : s.cCount = n) : s.cEmpty = (n == 0) := h ▸ rfl

/-! ### The counts after a store (R102) -/

/-- A store that the producer's view admits adds one to the producer's count. -/
theorem store_pCount (h : BlockInv s) (hr : Running s) (hroom : s.pCount ≠ s.cap) (v : Elem) :
    (s.store v).pCount = s.pCount + 1 := by
  obtain ⟨hview, -⟩ := view_facts h hr
  obtain ⟨⟨-, -, hle, -⟩, -⟩ := h.runningInv hr
  obtain ⟨-, -, hp, -⟩ := h
  unfold State.pCount at *
  simp only [store_cap, store_pushed, store_poppedView]
  exact occ_inc_left hp hview (by omega)

theorem store_cCount_sync (hk : s.build.clocking = .sync) (v : Elem) : (s.store v).cCount = (s.store v).pCount := by
  obtain ⟨hp, hc⟩ := sync_counts (s := s.store v) (by simpa using hk)
  exact hc.trans hp.symm

theorem store_cCount_async (hk : s.build.clocking = .async) (v : Elem) : (s.store v).cCount = s.cCount := by
  simp [State.cCount, store_pushedView_async v hk]

/-! ### One PUSH (R102) -/

/-- A PUSH that stores writes the slots, `pushed` with the crossing's copy of it, and its response. -/
theorem push_frame (ht : t = respond .producer .ok none s (s.store v)) :
    t = { s with slots := t.slots, pushed := t.pushed, resp := t.resp, pushedGray := t.pushedGray,
                 pushedGrayOld := t.pushedGrayOld } := by
  have hseq : t.seq = s.seq := by simp [ht]
  have hdrops : t.dropCount = s.dropCount := by simp [ht]
  have hframe := respond_store_frame (q := s.seq) ht
  rwa [hseq, hdrops] at hframe

theorem exec_push_full (hd : Live .producer s) (hv : v < 2 ^ s.build.width) (hfull : s.pCount = s.cap) :
    exec (.push v) s = .next (respond .producer .full none s s) :=
  (exec_push hd.ready hv).trans (if_pos hfull)

theorem exec_push_room (hd : Live .producer s) (hv : v < 2 ^ s.build.width) (hroom : s.pCount ≠ s.cap) :
    exec (.push v) s = .next (respond .producer .ok none s (s.store v)) :=
  (exec_push hd.ready hv).trans (if_neg hroom)

theorem Live.respond_store (hd : Live .producer s) (hv : v < 2 ^ s.build.width) (hroom : s.pCount ≠ s.cap) :
    Live .producer (respond .producer .ok none s (s.store v)) := by
  obtain ⟨h, hr, hp⟩ := hd
  exact ⟨blockInv_respond.mpr (h.store hr hroom hv), by simpa [Running] using hr, by simpa using hp⟩

/-! ### A run of PUSHes (R105) -/

theorem trace_cons {es : List Event} {acc ret : List Elem} (he : perform e s = .next u)
    (hes : trace es u = some (t, acc, ret)) :
    trace (e :: es) s = some (t, accepted e s u ++ acc, returned e u ++ ret) := by
  simp [trace, he, hes]

/-- The schedule of PUSHes of a list of elements. -/
def pushes (vs : List Elem) : List Event := vs.map fun v => .op (.push v)

/-- R105: where the producer's view leaves room for `m` elements, a run of PUSHes stores the first `m`, and its last
PUSH answers FULL exactly if it came after those; an empty run leaves the response as it was. -/
theorem trace_pushes (vs : List Elem) {m : Nat} (hd : Live .producer s) (hvs : ∀ v ∈ vs, v < 2 ^ s.build.width)
    (hm : s.pCount + m = s.cap) :
    ∃ t, trace (pushes vs) s = some (t, vs.take m, [])
      ∧ contents t = contents s ++ (vs.take m).map some
      ∧ t.resp.producer.map (·.status) =
          if vs = [] then s.resp.producer.map (·.status) else some (if vs.length ≤ m then .ok else .full) := by
  induction vs generalizing s m with
  | nil => exact ⟨s, by simp [pushes, trace], by simp, by simp⟩
  | cons v vs ih =>
    obtain ⟨hv, hvs⟩ := List.forall_mem_cons.mp hvs
    have ⟨h, hr, _⟩ := hd
    cases m with
    | zero =>
      have hpush := exec_push_full hd hv hm
      obtain ⟨t, htrace, hcontents, hstatus⟩ := ih (s := respond .producer .full none s s) (m := 0) hd hvs hm
      refine ⟨t, trace_cons (e := .op (.push v)) hpush htrace, hcontents, ?_⟩
      rw [hstatus]
      cases vs <;> simp
    | succ m =>
      have hroom : s.pCount ≠ s.cap := by omega
      have hpush := exec_push_room hd hv hroom
      have hm' : (s.store v).pCount + m = s.cap := by
        rw [store_pCount h hr hroom]
        omega
      obtain ⟨t, htrace, hcontents, hstatus⟩ :=
        ih (m := m) (hd.respond_store hv hroom) (by simpa using hvs) (by simpa using hm')
      refine ⟨t, trace_cons (e := .op (.push v)) hpush htrace, ?_, ?_⟩
      · rw [hcontents, contents_respond, contents_store h hr hroom]
        simp
      · rw [hstatus]
        cases vs <;> simp

end Sys2Proof.Machine
end

section
/-! PROOFS. The obligations of the family 40_producer_ops.md. -/

namespace Sys2Proof.Proofs.ProducerOpsFamily

open Sys2Proof Sys2Proof.Machine

/-- Settles O22: by induction on the list, with any number of elements of room; an empty ring has room for `C`. -/
theorem pushesFillToCapacityThenReportFull : Obligations.PushesFillToCapacityThenReportFull := by
  intro vs s hd hvs hempty
  obtain ⟨t, htrace, hcontents, hstatus⟩ := trace_pushes vs hd hvs (m := s.cap) (by omega)
  have hnil : contents s = [] := by
    obtain ⟨h, hr, -⟩ := hd
    obtain ⟨⟨-, hle, -⟩, -⟩ := h.runningInv hr
    exact List.length_eq_zero_iff.mp (contents_length.trans (by omega))
  refine ⟨t, htrace, by rw [hcontents, hnil, List.nil_append], fun hne => ?_⟩
  rw [hstatus, if_neg hne]

/-- Settles O19: the two branches of PUSH; after a store the producer's count has grown by one, and the consumer's is
that count in SYNC mode and the old one in ASYNC mode. -/
theorem pushStoresAtTheTailOrReportsFull : Obligations.PushStoresAtTheTailOrReportsFull := by
  intro v s hd hv
  have ⟨h, hr, hp⟩ := hd
  refine ⟨decode_of_encode_eq (i := .push v) hp (decide_eq_true hv) (concatBits_two v 1), fun hfull => ?_,
    fun hroom => ?_⟩
  · have hcount : s.pCount = s.cap := hfull
    have hflag : s.pFull = true := beq_iff_eq.mpr hfull
    rw [exec_push_full hd hv hfull, respond, hcount, hflag]
  · have hflag : s.pFull = false := beq_eq_false_iff_ne.mpr hroom
    have hcount := store_pCount h hr hroom v
    refine ⟨_, exec_push_room hd hv hroom, store_slot_same v, fun j hj => store_slot_ne v hj, store_pushed v s,
      by simp [hflag], push_frame rfl, hcount, by simpa using pFull_of_pCount hcount, fun hk => ?_, fun hk => ?_⟩
    · have hseen := (store_cCount_sync hk v).trans hcount
      exact ⟨by simpa using cEmpty_of_cCount hseen, hseen⟩
    · have hseen := store_cCount_async hk v
      exact ⟨cEmpty_of_cCount hseen, hseen⟩

/-- Settles O20: a ready state is within the bounds of R67, and `CW` bits hold `2*C - 1` by the choice of `CW`. -/
theorem pendingPReturnsProducerOccupancy : Obligations.PendingPReturnsProducerOccupancy := by
  intro v s hd hv
  have ⟨hl, hp, hr, hf⟩ := hd
  obtain ⟨-, -, -, hle, hge, -⟩ := ringFault_none.mp hf
  have hcap : 1 ≤ s.cap := (legal_facts hl).1
  have hwidth : 2 * s.cap ≤ 2 ^ s.build.counterWidth := clog2_le_iff.mp le_rfl
  exact ⟨decode_of_encode_eq (i := .pendingP v) hp (decide_eq_true hv) (concatBits_two v 2), exec_pendingP hd hv, hle,
    fun hk => (sync_counts hk).1, hge, by omega, by omega,
    fun t he => MemoryFamily.readsAreIdempotent (.pendingP v) s t hr (by simp) (by simp) (by simp) he⟩

/-- Settles O18: a read-only operation drives its response alone. -/
theorem nopPAnswersOkAndChangesNothing : Obligations.NopPAnswersOkAndChangesNothing :=
  fun v _ hd hv =>
    ⟨decode_of_encode_eq (i := .nopP v) hd.2.1 (decide_eq_true hv) (concatBits_two v 0), exec_nopP hd hv⟩

/-- Settles O21: the reserved encoding is answered before any full check. -/
theorem illegalPAnswersIllegalAndChangesNothing : Obligations.IllegalPAnswersIllegalAndChangesNothing :=
  fun v _ hd hv =>
    ⟨decode_of_encode_eq (i := .illegalP v) hd.2.1 (decide_eq_true hv) (concatBits_two v 3), exec_illegalP hd hv⟩

end Sys2Proof.Proofs.ProducerOpsFamily
end

section
/-! SUPPORT. The consumer port (R120 to R129): its answers on a ring it sees as empty or not, the counts after a take,
what keeps the head, and what one event of a schedule does to the contents. -/

namespace Sys2Proof.Machine

variable {s t u : State} {e : Event} {i : Instr}

/-! ### POP and PEEK in their two cases (R122, R123) -/

/-- R122, R123: on a ring that the consumer sees as empty, POP and PEEK report it and write nothing. -/
theorem exec_empty (hd : Ready .consumer s) (hc : s.cCount = 0) (hi : i = .pop ∨ i = .peek) :
    exec i s = .next (respond .consumer .emptyOrNoMessage none s s) := by
  rcases hi with rfl | rfl
  · exact (exec_pop hd).trans (if_pos hc)
  · exact (exec_peek hd).trans (if_pos hc)

theorem respond_consumer_empty (hc : s.cCount = 0) (st : Status) (d : Option Elem) :
    respond .consumer st d s t = { t with resp := { t.resp with
      consumer := some { status := st, data := d, count := 0, empty := true } } } := by
  rw [respond, hc, cEmpty_of_cCount hc]
  rfl

theorem respond_consumer_nonempty (hc : s.cCount ≠ 0) (st : Status) (d : Option Elem) :
    respond .consumer st d s t = { t with resp := { t.resp with
      consumer := some { status := st, data := d, count := s.cCount, empty := false } } } := by
  rw [respond, cEmpty_of_cCount rfl, beq_eq_false_iff_ne.mpr hc]

theorem exec_pop_head {v : Elem} (hd : Ready .consumer s) (hc : s.cCount ≠ 0) (hv : s.head = some v) :
    exec .pop s = .next (respond .consumer .ok (some v) s s.take) := by
  rw [exec_pop hd, if_neg hc, hv]

theorem exec_peek_head {v : Elem} (hd : Ready .consumer s) (hc : s.cCount ≠ 0) (hv : s.head = some v) :
    exec .peek s = .next (respond .consumer .ok (some v) s s) := by
  rw [exec_peek hd, if_neg hc, hv]

/-! ### The counts after a take (R122) -/

/-- A take that the consumer's view admits takes one from the consumer's count. -/
theorem take_cCount (h : BlockInv s) (hr : Running s) (hc : s.cCount ≠ 0) : s.take.cCount + 1 = s.cCount := by
  obtain ⟨-, hview, -⟩ := view_facts h hr
  obtain ⟨-, -, -, hq, -⟩ := h
  unfold State.cCount at *
  simp only [take_cap, take_pushedView, take_popped]
  exact occ_inc_right hview hq (Nat.pos_of_ne_zero hc)

theorem take_pCount_async (hk : s.build.clocking = .async) : s.take.pCount = s.pCount := by
  simp [State.pCount, take_poppedView_async hk]

/-- In SYNC mode there is room after a take. -/
theorem take_pCount_sync_lt (h : BlockInv s) (hr : Running s) (hc : s.cCount ≠ 0) (hk : s.build.clocking = .sync) :
    s.take.pCount < s.take.cap := by
  have hocc := take_occupancy h hr hc
  obtain ⟨⟨hbound, -⟩, -⟩ := h.runningInv hr
  rw [(sync_counts (s := s.take) (by simpa using hk)).1, take_cap]
  omega

/-! ### What keeps the head (R123, R129) -/

/-- R129: the tail's slot is not the head's, where the ring has an element and room. -/
theorem BlockInv.tail_ne_head (h : BlockInv s) (ho : 0 < s.occupancy) (hroom : s.occupancy < s.cap) :
    idx s.cap s.pushed ≠ idx s.cap s.popped := by
  obtain ⟨-, -, hp, hq, -⟩ := h
  exact (idx_advance_ne hp hq hroom ho).symm

/-- A store that the producer's view admits in a ring with an element keeps the head. -/
theorem BlockInv.store_head (h : BlockInv s) (hr : Running s) (ho : 0 < s.occupancy) (hroom : s.pCount ≠ s.cap)
    (v : Elem) : (s.store v).head = s.head := by
  obtain ⟨⟨-, hle, hbound, -⟩, -⟩ := h.runningInv hr
  have hne := h.tail_ne_head ho (by omega)
  unfold State.head
  rw [store_cap, store_popped]
  exact store_slot_ne v hne.symm

/-- R129: only POP moves the head of a ring with an element. -/
theorem BlockInv.exec_keeps_head (h : BlockInv s) (hr : Running s) (ho : 0 < s.occupancy) (hi : i ≠ .pop)
    (he : Machine.exec i s = .next t) : t.popped = s.popped ∧ t.head = s.head := by
  rcases exec_cases hr he with ⟨st, d, rfl, -⟩ | ⟨v, -, -, hroom, rfl⟩ | ⟨v, hpop, -⟩ | ⟨f, -, -, rfl⟩
    | ⟨f, -, -, hroom, rfl⟩
  · exact ⟨rfl, rfl⟩
  · exact ⟨store_popped v s, h.store_head hr ho hroom v⟩
  · exact absurd hpop hi
  · exact ⟨rfl, rfl⟩
  · exact ⟨store_popped _ _, (h.setEvents hr (s.seq + 1) s.dropCount).store_head hr ho hroom _⟩

/-- A store takes nothing from the consumer's count. -/
theorem BlockInv.store_cCount_le (h : BlockInv s) (hr : Running s) (hroom : s.pCount ≠ s.cap) (v : Elem) :
    s.cCount ≤ (s.store v).cCount := by
  cases hk : s.build.clocking with
  | sync =>
    have hcounts := sync_counts hk
    rw [store_cCount_sync hk, store_pCount h hr hroom]
    omega
  | async => exact (store_cCount_async hk v).ge

/-- Only POP takes from the consumer's count. -/
theorem BlockInv.exec_cCount_le (h : BlockInv s) (hr : Running s) (hi : i ≠ .pop) (he : Machine.exec i s = .next t) :
    s.cCount ≤ t.cCount := by
  rcases exec_cases hr he with ⟨st, d, rfl, -⟩ | ⟨v, -, -, hroom, rfl⟩ | ⟨v, hpop, -⟩ | ⟨f, -, -, rfl⟩
    | ⟨f, -, -, hroom, rfl⟩
  · exact le_rfl
  · exact h.store_cCount_le hr hroom v
  · exact absurd hpop hi
  · exact le_rfl
  · exact (h.setEvents hr (s.seq + 1) s.dropCount).store_cCount_le hr hroom _

/-! ### One event of a schedule (R56, R170) -/

/-- A sync step changes the crossing alone (R65, R66). -/
theorem syncStep_frame {d : Domain} {k : Nat} (he : syncStep d k s = .next t) :
    t = { s with rsync := t.rsync, wsync := t.wsync, pushedGrayOld := t.pushedGrayOld,
                 poppedGrayOld := t.poppedGrayOld } := by
  obtain ⟨-, -, -, -, hs⟩ := syncStep_next he
  exact syncBy_next hs

/-- A sync step takes nothing from the consumer's count: no view falls further behind. -/
theorem BlockInv.syncStep_cCount_le (h : BlockInv s) {d : Domain} {k : Nat}
    (he : Machine.syncStep d k s = .next t) : s.cCount ≤ t.cCount := by
  obtain ⟨-, hk, hr, -, -⟩ := syncStep_next he
  have hframe := syncStep_frame he
  have hrt : Running t := by rw [hframe]; exact hr
  have hkt : t.build.clocking = .async := by rw [hframe]; exact hk
  have hbuild : t.build = s.build := by rw [hframe]
  have hpushed : t.pushed = s.pushed := by rw [hframe]
  have hocc : t.occupancy = s.occupancy := by rw [hframe]; rfl
  have hlag := (halfStep_of_syncStep (d := .consumer) h he).lag_le (h.half hr hk .consumer) hpushed
  rw [← hbuild, halfOf_lag, hbuild, halfOf_lag] at hlag
  obtain ⟨-, -, -, hs⟩ := view_facts h hr
  obtain ⟨-, -, -, ht⟩ := view_facts (h.syncStep he) hrt
  simp only [State.pushedView, hk, hkt] at hs ht
  simp only [remoteOf, viewOf] at hlag
  omega

theorem BlockInv.perform (h : BlockInv s) (hr : Running s) (he : perform e s = .next t) : BlockInv t ∧ Running t := by
  cases e with
  | op i => exact ⟨h.exec_running hr he, (exec_surroundings hr he).2.1⟩
  | sync d k =>
    refine ⟨h.syncStep he, ?_⟩
    rw [syncStep_frame he]
    exact hr

/-- R123: where the consumer sees an element, no event but a POP changes the head, nor what the consumer counts but
upwards. -/
theorem BlockInv.perform_keeps_head (h : BlockInv s) (hr : Running s) (hc : s.cCount ≠ 0) (hne : e ≠ .op .pop)
    (he : Machine.perform e s = .next t) : t.head = s.head ∧ s.cCount ≤ t.cCount := by
  cases e with
  | op i =>
    have hi : i ≠ .pop := fun hi => hne (congrArg _ hi)
    obtain ⟨-, -, -, hcount⟩ := view_facts h hr
    exact ⟨(h.exec_keeps_head hr (by omega) hi he).2, h.exec_cCount_le hr hi he⟩
  | sync d k =>
    refine ⟨?_, h.syncStep_cCount_le he⟩
    rw [syncStep_frame he]
    rfl

/-- An event that only responds adds nothing to the ring and removes nothing. -/
theorem accepted_returned_of_respond {st : Status} {d : Option Elem} (hpush : ∀ v, i = .push v → st = .full)
    (hpop : i = .pop → d = none) (hingest : ∀ f, i ≠ .ingest true f) :
    accepted (.op i) s (respond i.port st d s s) = [] ∧ returned (.op i) (respond i.port st d s s) = [] := by
  cases i with
  | push v =>
    obtain rfl := hpush v rfl
    exact ⟨rfl, rfl⟩
  | pop =>
    obtain rfl := hpop rfl
    exact ⟨rfl, rfl⟩
  | ingest m f =>
    cases m with
    | false => exact ⟨rfl, rfl⟩
    | true => exact absurd rfl (hingest f)
  | nopP v | pendingP v | illegalP v | nopC | peek | pendingC | nopI m f => exact ⟨rfl, rfl⟩

/-- R125: an event appends to the contents what it accepts and removes from their front what it returns. -/
theorem BlockInv.perform_contents (h : BlockInv s) (hr : Running s) (he : Machine.perform e s = .next t) :
    contents s ++ (accepted e s t).map some = (returned e t).map some ++ contents t := by
  cases e with
  | op i =>
    rcases exec_cases hr he with ⟨st, d, rfl, hpush, hpop, hingest⟩ | ⟨v, rfl, -, hroom, rfl⟩ | ⟨v, rfl, hc, hv, rfl⟩
      | ⟨f, rfl, -, rfl⟩ | ⟨f, rfl, -, hroom, rfl⟩
    · obtain ⟨hacc, hret⟩ := accepted_returned_of_respond (s := s) hpush (fun hi => (hpop hi).2) hingest
      rw [hacc, hret, contents_respond]
      exact List.append_nil _
    · exact (contents_store h hr hroom v).symm
    · obtain ⟨v', hv', -, hcons⟩ := contents_take h hr hc
      obtain rfl : v' = v := Option.some.inj (hv'.symm.trans hv)
      exact (List.append_nil _).trans hcons
    · exact List.append_nil _
    · exact (contents_store (h.setEvents hr (s.seq + 1) s.dropCount) hr hroom _).symm
  | sync d k =>
    have hsame : contents t = contents s := by
      rw [syncStep_frame he]
      rfl
    rw [hsame]
    exact List.append_nil _

/-! ### Schedules (R56, R125) -/

/-- What the first event of a schedule that completes did, and what is left of it. -/
theorem trace_cons_some {es : List Event} {acc ret : List Elem} (h : trace (e :: es) s = some (t, acc, ret)) :
    ∃ u acc' ret', perform e s = .next u ∧ trace es u = some (t, acc', ret')
      ∧ acc = accepted e s u ++ acc' ∧ ret = returned e u ++ ret' := by
  rw [trace] at h
  split at h
  · rename_i u hu
    split at h
    · rename_i v acc' ret' hes
      cases h
      exact ⟨u, acc', ret', hu, hes, rfl, rfl⟩
    · simp at h
  · simp at h
  · simp at h

/-- R125: first in, first out, by induction on the schedule. -/
theorem BlockInv.trace_contents {es : List Event} {acc ret : List Elem} (h : BlockInv s) (hr : Running s)
    (htrace : trace es s = some (t, acc, ret)) : contents s ++ acc.map some = ret.map some ++ contents t := by
  induction es generalizing s acc ret with
  | nil =>
    cases htrace
    exact List.append_nil _
  | cons e es ih =>
    obtain ⟨u, acc', ret', he, hes, rfl, rfl⟩ := trace_cons_some htrace
    obtain ⟨hu, hru⟩ := h.perform hr he
    have hfirst := h.perform_contents hr he
    have hrest := ih hu hru hes
    calc contents s ++ (accepted e s u ++ acc').map some
        = (contents s ++ (accepted e s u).map some) ++ acc'.map some := by rw [List.map_append, List.append_assoc]
      _ = (returned e u).map some ++ (contents u ++ acc'.map some) := by rw [hfirst, List.append_assoc]
      _ = (returned e u ++ ret').map some ++ contents t := by rw [hrest, List.map_append, List.append_assoc]

/-- R123: over a schedule with no POP, the head that the consumer sees stays. -/
theorem BlockInv.trace_keeps_head {es : List Event} {acc ret : List Elem} (h : BlockInv s) (hr : Running s)
    (hc : s.cCount ≠ 0) (hes : ∀ x ∈ es, x ≠ .op .pop) (htrace : trace es s = some (t, acc, ret)) :
    BlockInv t ∧ Running t ∧ t.head = s.head ∧ t.cCount ≠ 0 := by
  induction es generalizing s acc ret with
  | nil =>
    cases htrace
    exact ⟨h, hr, rfl, hc⟩
  | cons e es ih =>
    obtain ⟨u, acc', ret', he, htail, -, -⟩ := trace_cons_some htrace
    obtain ⟨hne, hes⟩ := List.forall_mem_cons.mp hes
    obtain ⟨hu, hru⟩ := h.perform hr he
    obtain ⟨hhead, hcount⟩ := h.perform_keeps_head hr hc hne he
    obtain ⟨ht, hrt, hsame, hct⟩ := ih hu hru (by omega) hes htail
    exact ⟨ht, hrt, hsame.trans hhead, hct⟩

/-- R127: on a ring that the consumer sees as empty, a run of POPs and PEEKs ends as one of them does. -/
theorem trace_empty {es : List Event} (hd : Ready .consumer s) (hc : s.cCount = 0)
    (hes : ∀ x ∈ es, x = .op .pop ∨ x = .op .peek) :
    trace es s = some (if es = [] then s else respond .consumer .emptyOrNoMessage none s s, [], []) := by
  induction es generalizing s with
  | nil => rfl
  | cons e es ih =>
    obtain ⟨he, hes⟩ := List.forall_mem_cons.mp hes
    have hrest := ih (s := respond .consumer .emptyOrNoMessage none s s) hd hc hes
    rw [respond_respond, ite_self] at hrest
    rcases he with rfl | rfl
    · exact trace_cons (e := .op .pop) (exec_empty hd hc (.inl rfl)) hrest
    · exact trace_cons (e := .op .peek) (exec_empty hd hc (.inr rfl)) hrest

end Sys2Proof.Machine
end

section
/-! PROOFS. The obligations of the family 41_consumer_ops.md. -/

namespace Sys2Proof.Proofs.ConsumerOpsFamily

open Sys2Proof Sys2Proof.Machine

/-- Settles O46: each event appends what it accepts and removes what it returns; by induction on the schedule. -/
theorem schedulesAreFirstInFirstOut : Obligations.SchedulesAreFirstInFirstOut :=
  fun _ _ _ _ _ h hr htrace => h.trace_contents hr htrace

/-- Settles O24: the two branches of POP; after a take the consumer's count has fallen by one, and the producer's is the
occupancy in SYNC mode and the old count in ASYNC mode. -/
theorem popReturnsTheHeadOrReportsEmpty : Obligations.PopReturnsTheHeadOrReportsEmpty := by
  intro s hd
  have ⟨h, hr, _⟩ := hd
  refine ⟨decode_pop _, fun hempty => ?_, fun hc => ?_⟩
  · rw [exec_empty hd.ready hempty (.inl rfl), respond_consumer_empty hempty]
  · obtain ⟨e, hhead, -⟩ := contents_take h hr hc
    have hcount := take_cCount h hr hc
    refine ⟨_, e, exec_pop_head hd.ready hc hhead, hhead, ?_, take_popped s, respond_take_frame rfl, hcount,
      cEmpty_of_cCount (s := s.take) (by omega), fun hk => ?_, fun hk => ?_⟩
    · rw [respond_consumer_nonempty hc, take_resp]
    · exact beq_eq_false_iff_ne.mpr (take_pCount_sync_lt h hr hc hk).ne
    · have hcountP := take_pCount_async hk
      exact ⟨(pFull_of_pCount (s := s.take) hcountP).trans (by rw [take_cap]; rfl), hcountP⟩

/-- Settles O25: the two branches of PEEK, with the head that stays over a schedule with no POP. -/
theorem peekReturnsTheHeadAndChangesNothing : Obligations.PeekReturnsTheHeadAndChangesNothing := by
  intro s hd
  have ⟨h, hr, _⟩ := hd
  refine ⟨rfl, fun hempty => ?_, fun hc => ?_, fun t he => ?_⟩
  · rw [exec_empty hd.ready hempty (.inr rfl), respond_consumer_empty hempty]
  · obtain ⟨e, hhead, -⟩ := contents_take h hr hc
    refine ⟨e, hhead, ?_, fun es t acc ret hes htrace => ?_⟩
    · rw [exec_peek_head hd.ready hc hhead, respond_consumer_nonempty hc]
    · obtain ⟨ht, hrt, hsame, hct⟩ := h.trace_keeps_head hr hc hes htrace
      exact ⟨_, exec_peek_head (Live.ready ⟨ht, hrt, rfl⟩) hct (hsame.trans hhead), rfl⟩
  · exact MemoryFamily.readsAreIdempotent .peek s t hr (by simp) (by simp) (by simp) he

/-- Settles O26: a ready state is within the bounds of R67. -/
theorem pendingCReturnsConsumerOccupancy : Obligations.PendingCReturnsConsumerOccupancy := by
  intro s hd
  have ⟨_, _, _, hf⟩ := hd
  obtain ⟨-, -, hbound, -, -, hle⟩ := ringFault_none.mp hf
  exact ⟨rfl, exec_pendingC hd, hle.trans hbound, fun hk => (sync_counts hk).2, hle⟩

/-- Settles O27: each POP or PEEK reports EMPTY, and so leaves the ring as empty as it was. -/
theorem emptyPopsAndPeeksWriteNothing : Obligations.EmptyPopsAndPeeksWriteNothing := by
  intro es s hd hc hes
  refine ⟨_, trace_empty hd hc hes, ?_, fun hne => ?_⟩
  · split <;> rfl
  · rw [if_neg hne, respond_consumer_empty hc]

/-- Settles O28: a store is to the tail's slot, which is not the head's. -/
theorem onlyPopChangesTheHead : Obligations.OnlyPopChangesTheHead := by
  intro i s t h hr ho hi he
  obtain ⟨hpopped, hhead⟩ := h.exec_keeps_head hr ho hi he
  refine ⟨hpopped, hhead, h.tail_ne_head ho, fun v hv => ?_⟩
  exact (StateFamily.storingOperationsFrame i s t hr (.inl ⟨v, hv⟩) he).2.1

/-- Settles O23: a read-only operation drives its response alone. -/
theorem nopCAnswersOkAndChangesNothing : Obligations.NopCAnswersOkAndChangesNothing :=
  fun _ hd => ⟨rfl, exec_nopC hd⟩

/-- Settles O44: each flag is a comparison of its count, and a capacity of at least 1 is not 0. -/
theorem emptyAndFullExcludeEachOther : Obligations.EmptyAndFullExcludeEachOther := by
  intro s hcap
  have hempty : s.cEmpty = true ↔ s.cCount = 0 := beq_iff_eq
  have hfull : s.pFull = true ↔ s.pCount = s.cap := beq_iff_eq
  refine ⟨hempty, hfull, fun h => ?_, fun h => ?_, by omega, by omega, fun hk => ?_⟩
  · have := hempty.mp h
    omega
  · have := hfull.mp h
    omega
  · have hcounts := sync_counts hk
    rw [hempty, hfull]
    omega

end Sys2Proof.Proofs.ConsumerOpsFamily
end

section
/-! SUPPORT. The ingest port (R140 to R147): the request words of its operations, INGEST in its three cases, and how the
frames of a schedule are stamped, and stored or counted as dropped. -/

namespace Sys2Proof.Machine

variable {s t u : State} {e : Event} {i : Instr} {f k k' a a' : Nat}

/-- R83: an ingest word from its fields. -/
theorem ingest_word (f : Nat) (h : Bool) (op : Nat) :
    concatBits f 2 (concatBits (bitOf h) 1 op) = 4 * f + 2 * h.toNat + op := by
  have hbit : bitOf h = h.toNat := by cases h <;> rfl
  unfold concatBits
  omega

/-! ### INGEST with a message (R143) -/

theorem exec_ingest_full (hd : Ready .ingest s) (hf : f < 2 ^ s.build.frameWidth) (hfull : s.pCount = s.cap) :
    exec (.ingest true f) s
      = .next (respond .ingest .full none s { s with seq := s.seq + 1, dropCount := s.dropCount + 1 }) :=
  (exec_ingest hd hf).trans (if_pos hfull)

theorem exec_ingest_room (hd : Ready .ingest s) (hf : f < 2 ^ s.build.frameWidth) (hroom : s.pCount ≠ s.cap) :
    exec (.ingest true f) s = .next (respond .ingest .ok none s
      (State.store (stampedElement f (nextStamp s)) { s with seq := s.seq + 1 })) :=
  (exec_ingest hd hf).trans (if_neg hroom)

/-- An INGEST that stores writes the slots, `pushed` with the crossing's copy of it, `seq`, and its response. -/
theorem ingest_store_frame {v : Elem} {q : Word32}
    (ht : t = respond .ingest .ok none s (State.store v { s with seq := q })) :
    t = { s with slots := t.slots, pushed := t.pushed, seq := t.seq, resp := t.resp, pushedGray := t.pushedGray,
                 pushedGrayOld := t.pushedGrayOld } := by
  have hdrops : t.dropCount = s.dropCount := by simp [ht]
  have hframe := respond_store_frame ht
  rwa [hdrops] at hframe

/-! ### Frames stamped, and stored or counted (R144, R145, R147) -/

/-- The event is an INGEST with a message. -/
def Event.bringsFrame (e : Event) : Bool :=
  match e with
  | .op (.ingest true _) => true
  | _ => false

/-- Between the two states `frames` frames were stamped, `stored` of them were stored, and the rest were counted as
dropped, the counters modulo `2^32`. -/
def FramesAccounted (frames stored : Nat) (s t : State) : Prop :=
  t.seq = s.seq + BitVec.ofNat 32 frames ∧ stored ≤ frames
    ∧ t.dropCount = s.dropCount + BitVec.ofNat 32 (frames - stored)

theorem framesAccounted_none (hseq : t.seq = s.seq) (hdrops : t.dropCount = s.dropCount) :
    FramesAccounted 0 0 s t := by
  simp [FramesAccounted, hseq, hdrops]

theorem framesAccounted_dropped (hseq : t.seq = s.seq + 1) (hdrops : t.dropCount = s.dropCount + 1) :
    FramesAccounted 1 0 s t :=
  ⟨hseq, Nat.zero_le 1, hdrops⟩

theorem framesAccounted_stored (hseq : t.seq = s.seq + 1) (hdrops : t.dropCount = s.dropCount) :
    FramesAccounted 1 1 s t := by
  simp [FramesAccounted, hseq, hdrops]

/-- The accounts of two parts of a schedule add up. -/
theorem FramesAccounted.trans (h : FramesAccounted k a s t) (h' : FramesAccounted k' a' t u) :
    FramesAccounted (k + k') (a + a') s u := by
  obtain ⟨hseq, hle, hdrops⟩ := h
  obtain ⟨hseq', hle', hdrops'⟩ := h'
  have hrest : k + k' - (a + a') = k - a + (k' - a') := by omega
  refine ⟨?_, Nat.add_le_add hle hle', ?_⟩
  · rw [hseq', hseq, BitVec.ofNat_add, BitVec.add_assoc]
  · rw [hdrops', hdrops, hrest, BitVec.ofNat_add, BitVec.add_assoc]

theorem bringsFrame_eq_false (hi : ∀ f, i ≠ .ingest true f) : (Event.op i).bringsFrame = false := by
  unfold Event.bringsFrame
  split
  · rename_i f heq
    exact absurd (Event.op.inj heq) (hi f)
  · rfl

/-- R86, R140: where the front-end is built, the ring has no external producer port. -/
theorem hasPort_producer_of_ingest {b : Build} (h : b.hasPort .ingest = true) : b.hasPort .producer = false := by
  have hpresent : b.ingestPresent = true := h
  simp [Build.hasPort, hpresent]

/-- R143: one event stamps the frame it brings, if any, and stores it or counts its drop. -/
theorem Live.perform_accounts (hd : Live .ingest s) (he : perform e s = .next t) :
    FramesAccounted (if e.bringsFrame then 1 else 0) (accepted e s t).length s t := by
  obtain ⟨-, hr, hp⟩ := hd
  cases e with
  | op i =>
    rcases exec_cases hr he with ⟨st, d, rfl, hpush, hpop, hingest⟩ | ⟨v, rfl, -⟩ | ⟨v, rfl, -, -, rfl⟩
      | ⟨f, rfl, -, rfl⟩ | ⟨f, rfl, -, -, rfl⟩
    · rw [bringsFrame_eq_false hingest, (accepted_returned_of_respond hpush (fun hi => (hpop hi).2) hingest).1]
      exact framesAccounted_none (by simp) (by simp)
    · obtain ⟨⟨-, hproducer, -⟩, -⟩ := exec_next_ready (i := .push v) hr he
      exact absurd ((hasPort_producer_of_ingest hp).symm.trans hproducer) Bool.false_ne_true
    · exact framesAccounted_none (by simp) (by simp)
    · exact framesAccounted_dropped rfl rfl
    · exact framesAccounted_stored (by simp) (by simp)
  | sync d n =>
    have hframe := syncStep_frame he
    exact framesAccounted_none (by rw [hframe]) (by rw [hframe])

/-- No event takes the ingest port away. -/
theorem Live.perform (hd : Live .ingest s) (he : perform e s = .next t) : Live .ingest t := by
  obtain ⟨h, hr, hp⟩ := hd
  obtain ⟨ht, hrt⟩ := h.perform hr he
  have hbuild : t.build = s.build := by
    cases e with
    | op i => exact exec_build he
    | sync d n => rw [syncStep_frame he]
  exact ⟨ht, hrt, hbuild ▸ hp⟩

/-- R144, R145, R147: over a schedule every frame is accounted for, by induction on the schedule. -/
theorem Live.trace_accounts {es : List Event} {acc ret : List Elem} (hd : Live .ingest s)
    (htrace : trace es s = some (t, acc, ret)) :
    FramesAccounted (es.countP Event.bringsFrame) acc.length s t := by
  induction es generalizing s acc ret with
  | nil =>
    cases htrace
    exact framesAccounted_none rfl rfl
  | cons e es ih =>
    obtain ⟨u, acc', ret', he, hes, rfl, -⟩ := trace_cons_some htrace
    rw [List.countP_cons, Nat.add_comm, List.length_append]
    exact (hd.perform_accounts he).trans (ih (hd.perform he) hes)

end Sys2Proof.Machine
end

section
/-! PROOFS. The obligations of the family 43_ingest_frontend.md. -/

namespace Sys2Proof.Proofs.IngestFamily

open Sys2Proof Sys2Proof.Machine

/-- Settles O31: each event accounts for the frame it brings, and accounts add up over a schedule. -/
theorem everyFrameIsStampedAndStoredOrCounted : Obligations.EveryFrameIsStampedAndStoredOrCounted :=
  fun _ _ _ _ _ hd htrace => hd.trace_accounts htrace

/-- Settles O30: no message is answered alone; a full ring has the drop counted; otherwise the stamped frame is stored in
the tail's slot. -/
theorem ingestStampsThenStoresOrCountsTheDrop : Obligations.IngestStampsThenStoresOrCountsTheDrop := by
  intro h f s hd hf
  refine ⟨decode_of_encode_eq (i := .ingest h f) hd.2.2 (decide_eq_true hf) (ingest_word f h 1), ?_, ?_, ?_⟩
  · rintro rfl
    exact exec_ingest_none hd.ready hf
  · rintro rfl hfull
    exact exec_ingest_full hd.ready hf hfull
  · rintro rfl hroom
    exact ⟨_, exec_ingest_room hd.ready hf hroom, store_slot_same (s := { s with seq := s.seq + 1 }) _,
      fun j hj => store_slot_ne (s := { s with seq := s.seq + 1 }) _ hj, store_pushed _ _, store_seq _ _,
      by simp, ingest_store_frame rfl⟩

/-- Settles O29: a read-only operation drives its response alone. -/
theorem nopIAnswersOkAndChangesNothing : Obligations.NopIAnswersOkAndChangesNothing :=
  fun h f _ hd hf =>
    ⟨decode_of_encode_eq (i := .nopI h f) hd.2.1 (decide_eq_true hf) (ingest_word f h 0), exec_nopI hd hf⟩

end Sys2Proof.Proofs.IngestFamily
end

section
/-! SUPPORT. What lets a step's next input take its effect (R170, R184), and the step with no input (R175). -/

namespace Sys2Proof.Machine

variable {s : State} {e : Input} {rest : List Input}

/-- R184: the ports on which an input brings a request from outside. -/
def Input.outsidePorts (b : Build) : Input → List Port
  | .request p _ => [p]
  | .sameCycle _ _ => [portOf b .producer, .consumer]
  | .edge d (some _) _ => [portOf b d]
  | .edge _ none _ | .agent _ | .sync _ _ | .rstAssert | .rstRelease _ => []

theorem fromOutside_ok {p : Port} {r : Result} (hp : portDriven p s = false) : fromOutside p s r = r := by
  simp [fromOutside, hp]

/-- The converse of `takeInput_next`: where the conditions of a step hold and no agent drives a port on which the input
brings a request, the input takes its effect, be that a next state or a stop. -/
theorem takeInput_eq_effect (hd : portsDistinct s = true) (hl : s.build.legal = true) (hf : stateFault s = none)
    (hp : ∀ p ∈ e.outsidePorts s.build, portDriven p s = false) : takeInput e s = e.effect s := by
  refine (composed_ok hd hl hf).trans ?_
  cases e with
  | request p bits => exact fromOutside_ok (hp p (by simp [Input.outsidePorts]))
  | sameCycle v w =>
    exact (fromOutside_ok (hp (portOf s.build .producer) (by simp [Input.outsidePorts]))).trans
      (fromOutside_ok (hp .consumer (by simp [Input.outsidePorts])))
  | edge d bits late =>
    cases bits with
    | none => rfl
    | some w => exact fromOutside_ok (hp (portOf s.build d) (by simp [Input.outsidePorts]))
  | agent k => rfl
  | sync d k => rfl
  | rstAssert => rfl
  | rstRelease d => rfl

theorem stateFault_setInputs : stateFault { s with inputs := rest } = stateFault s := rfl

/-- R170: a step takes the effect of the next input, with the input removed. -/
theorem step_eq_effect (hd : portsDistinct s = true) (hl : s.build.legal = true) (hf : stateFault s = none)
    (hin : s.inputs = e :: rest) (hp : ∀ p ∈ e.outsidePorts s.build, portDriven p s = false) :
    step s = e.effect { s with inputs := rest } := by
  rw [step, hin]
  exact takeInput_eq_effect hd hl (stateFault_setInputs.trans hf) hp

/-- R175: with no input the state holds. -/
theorem step_of_no_input (hd : portsDistinct s = true) (hl : s.build.legal = true) (hf : stateFault s = none)
    (hin : s.inputs = []) : step s = .next s := by
  rw [step, hin]
  exact composed_ok hd hl hf

end Sys2Proof.Machine
end

section
/-! PROOFS. The obligations of the family 60_exceptions.md. -/

namespace Sys2Proof.Proofs.ExceptionsFamily

open Sys2Proof Sys2Proof.Machine

/-- Settles O57: a step takes its next input's effect, and only the same-cycle pair of these inputs brings requests from
outside, on two ports that no agent drives. -/
theorem stepTakesTheNextInput : Obligations.StepTakesTheNextInput := by
  intro s rest hd hl hf
  refine ⟨step_of_no_input hd hl hf, fun d k hin => ?_, fun hin => ?_, fun d hin => ?_, fun k hin => ?_,
    fun v w hin hproducer hconsumer => ?_⟩
  · exact (step_eq_effect hd hl hf hin (List.forall_mem_nil _) :)
  · exact (step_eq_effect hd hl hf hin (List.forall_mem_nil _) :)
  · exact (step_eq_effect hd hl hf hin (List.forall_mem_nil _) :)
  · exact (step_eq_effect hd hl hf hin (List.forall_mem_nil _) :)
  · exact step_eq_effect hd hl hf hin (by simp [Input.outsidePorts, hproducer, hconsumer])

end Sys2Proof.Proofs.ExceptionsFamily
end

section
/-! SUPPORT. What `rst` does to requests and lines (R180, R181), a whole reset sequence input by input (R183), the drain
of a count (R124, R188), and who may drive a port (R140, R184). -/

namespace Sys2Proof.Machine

variable {s t u : State} {i : Instr} {e : Event} {d : Domain}

/-! ### Requests under `rst` (R180, R181) -/

theorem wellFormed_iff {b : Build} : i.wellFormed b = true ↔ b.hasPort i.port = true ∧ i.fits b = true := by
  simp [Instr.wellFormed]

theorem ResetLine.exists_asserted {l : ResetLine} (h : l ≠ .released) : ∃ seen, l = .asserted seen := by
  cases l with
  | released => exact absurd rfl h
  | asserted seen => exact ⟨seen, rfl⟩

section

variable (hl : s.build.legal = true) (hw : i.wellFormed s.build = true) (hf : stateFault s = none)
include hl hw hf

/-- R180: while `rst` is asserted in both domains a request is ignored, and is an edge of its port's clock. -/
theorem exec_underReset {p c : Bool} (hP : s.rstP = .asserted p) (hC : s.rstC = .asserted c) :
    exec i s = .next (respondUnspecified i.port (resetEdge (domainOf i.port) s)) := by
  obtain ⟨hp, hfits⟩ := wellFormed_iff.mp hw
  obtain ⟨op, hop⟩ := exec_eq_operate i s
  simp [hop, operate, hl, hp, hfits, hf, hP, hC]

/-- R181: while one domain only is out of reset a request is refused. -/
theorem exec_halfReset (hhalf : s.rstP = .released ∧ s.rstC ≠ .released ∨ s.rstP ≠ .released ∧ s.rstC = .released) :
    exec i s = .refused .inReset := by
  obtain ⟨hp, hfits⟩ := wellFormed_iff.mp hw
  obtain ⟨op, hop⟩ := exec_eq_operate i s
  rcases hhalf with ⟨hP, hC⟩ | ⟨hP, hC⟩
  · obtain ⟨seen, hC⟩ := ResetLine.exists_asserted hC
    simp [hop, operate, hl, hp, hfits, hf, hP, hC]
  · obtain ⟨seen, hP⟩ := ResetLine.exists_asserted hP
    simp [hop, operate, hl, hp, hfits, hf, hP, hC]

end

theorem domainOf_of_ne_consumer {p : Port} (hp : p ≠ .consumer) : domainOf p = .producer := by
  cases p with
  | producer | ingest => rfl
  | consumer => exact absurd rfl hp

/-! ### The reset edge (R36, R180, R181) -/

theorem resetEdge_producer_async (hk : s.build.clocking = .async) :
    resetEdge .producer s = resetProducerSide s := by
  simp [resetEdge, hk]

theorem resetEdge_consumer_async (hk : s.build.clocking = .async) :
    resetEdge .consumer s = resetConsumerSide s := by
  simp [resetEdge, hk]

theorem resetEdge_producer_reset (s : State) :
    ProducerSideReset (resetEdge .producer s) ∧ (resetEdge .producer s).rstP = .asserted true := by
  cases hk : s.build.clocking with
  | sync => rw [resetEdge_sync hk]; exact ⟨resetProducerSide_reset s, rfl⟩
  | async => rw [resetEdge_producer_async hk]; exact ⟨resetProducerSide_reset s, rfl⟩

theorem resetEdge_consumer_reset (s : State) :
    ConsumerSideReset (resetEdge .consumer s) ∧ (resetEdge .consumer s).rstC = .asserted true := by
  cases hk : s.build.clocking with
  | sync => rw [resetEdge_sync hk]; exact ⟨resetConsumerSide_reset _, rfl⟩
  | async => rw [resetEdge_consumer_async hk]; exact ⟨resetConsumerSide_reset s, rfl⟩

theorem resetLineOf_resetEdge (d : Domain) (s : State) : resetLineOf d (resetEdge d s) = .asserted true := by
  cases d with
  | producer => exact (resetEdge_producer_reset s).2
  | consumer => exact (resetEdge_consumer_reset s).2

/-- An edge of one domain leaves the other's line as it was, or in SYNC mode is an edge of both. -/
theorem resetLineOf_resetEdge_or (d d' : Domain) (s : State) :
    resetLineOf d' (resetEdge d s) = .asserted true ∨ resetLineOf d' (resetEdge d s) = resetLineOf d' s := by
  cases hk : s.build.clocking with
  | sync => rw [resetEdge_sync hk]; cases d' <;> exact .inl rfl
  | async =>
    cases d with
    | producer => rw [resetEdge_producer_async hk]; cases d' <;> simp [resetLineOf]
    | consumer => rw [resetEdge_consumer_async hk]; cases d' <;> simp [resetLineOf]

@[simp] theorem resetLineOf_respondUnspecified (d : Domain) (p : Port) (s : State) :
    resetLineOf d (respondUnspecified p s) = resetLineOf d s := by cases d <;> rfl

theorem idleEdge_underReset {late : Bool} (hl : s.build.legal = true) (hf : stateFault s = none)
    (hd : resetLineOf d s ≠ .released) :
    idleEdge d late s = .next (respondUnspecified (portOf s.build d) (resetEdge d s)) := by
  rw [idleEdge, guarded_ok hl hf]
  obtain ⟨seen, hline⟩ := ResetLine.exists_asserted hd
  rw [hline]

/-- The unspecified response is on its own port. -/
theorem respondUnspecified_resp_other (p : Port) (s : State) :
    (p ≠ .producer → (respondUnspecified p s).resp.producer = s.resp.producer)
      ∧ (p ≠ .consumer → (respondUnspecified p s).resp.consumer = s.resp.consumer)
      ∧ (p ≠ .ingest → (respondUnspecified p s).resp.ingest = s.resp.ingest) := by
  cases p <;> simp [respondUnspecified]

@[simp] theorem resetLineOf_setInputs (d : Domain) (s : State) (es : List Input) :
    resetLineOf d { s with inputs := es } = resetLineOf d s := by cases d <;> rfl

/-! ### Asserting and releasing (R180, R181) -/

theorem resetLineOf_assertReset (d : Domain) (s : State) : resetLineOf d (assertReset s) = (resetLineOf d s).assert := by
  cases d <;> rfl

/-- Once each domain has had its edge, a release takes its own domain out of reset, and changes nothing else but that
in SYNC mode it takes the other domain along. -/
theorem releaseReset_mayRelease (d : Domain) (h : ∀ d', (resetLineOf d' s).mayRelease = true) :
    ∃ t, releaseReset d s = .next t ∧ t = { s with rstP := t.rstP, rstC := t.rstC }
      ∧ resetLineOf d t = .released ∧ ∀ d', resetLineOf d' t = .released ∨ resetLineOf d' t = resetLineOf d' s := by
  have hP : s.rstP.mayRelease = true := h .producer
  have hC : s.rstC.mayRelease = true := h .consumer
  cases hk : s.build.clocking with
  | sync =>
    exact ⟨{ s with rstP := .released, rstC := .released }, by simp [releaseReset, hP, hC, hk], rfl,
      by cases d <;> rfl, fun d' => by cases d' <;> exact .inl rfl⟩
  | async =>
    cases d with
    | producer =>
      exact ⟨{ s with rstP := .released }, by simp [releaseReset, hP, hC, hk], rfl, rfl,
        fun d' => by cases d' <;> simp [resetLineOf]⟩
    | consumer =>
      exact ⟨{ s with rstC := .released }, by simp [releaseReset, hP, hC, hk], rfl, rfl,
        fun d' => by cases d' <;> simp [resetLineOf]⟩

theorem releaseReset_early (d : Domain) (h : s.rstP = .asserted false ∨ s.rstC = .asserted false) :
    releaseReset d s = .refused .resetReleasedEarly := by
  rcases h with h | h <;> simp [releaseReset, h, ResetLine.mayRelease]

/-! ### A reset sequence (R183) -/

/-- A singly driven block that meets its invariant, with these inputs to come. -/
structure Attends (s : State) (es : List Input) : Prop where
  inv : BlockInv s
  ports : portsDistinct s = true
  inputs : s.inputs = es

variable {es : List Input} {late : Bool}

/-- A next input that brings no request from outside takes its effect; where that leaves the agents and the later inputs
alone, the block attends to those. -/
theorem Attends.step {x : Input} (h : Attends s (x :: es)) (hx : x.outsidePorts s.build = [])
    (he : x.effect { s with inputs := es } = .next t) (hagents : t.agents = s.agents) (hinputs : t.inputs = es) :
    Machine.step s = .next t ∧ Attends t es ∧ t.build = s.build := by
  obtain ⟨hinv, hd, hin⟩ := h
  have hbuild := effect_build he
  refine ⟨?_, ⟨(blockInv_setInputs.mpr hinv).effect he, ?_, hinputs⟩, hbuild⟩
  · rw [step_eq_effect hd hinv.1 (stateFault_none_of_inv hinv) hin (by simp [hx]), he]
  · rw [portsDistinct, hagents]
    exact hd

theorem Attends.assert (h : Attends s (.rstAssert :: es)) :
    ∃ t, Machine.step s = .next t ∧ Attends t es ∧ t.build = s.build ∧ ∀ d, resetLineOf d t ≠ .released := by
  obtain ⟨hstep, hattends, hbuild⟩ := h.step (t := assertReset { s with inputs := es }) rfl rfl rfl rfl
  refine ⟨_, hstep, hattends, hbuild, fun d => ?_⟩
  rw [resetLineOf_assertReset]
  exact ResetLine.assert_ne_released _

/-- R180: an edge under `rst` is seen by its own domain, and in SYNC mode by the other one too. -/
theorem Attends.edge (h : Attends s (.edge d none late :: es)) (hd : resetLineOf d s ≠ .released) :
    ∃ t, Machine.step s = .next t ∧ Attends t es ∧ t.build = s.build ∧ resetLineOf d t = .asserted true
      ∧ ∀ d', resetLineOf d' t = .asserted true ∨ resetLineOf d' t = resetLineOf d' s := by
  have heffect : Input.effect (.edge d none late) { s with inputs := es } = .next _ :=
    idleEdge_underReset h.inv.1 (stateFault_none_of_inv (blockInv_setInputs.mpr h.inv)) (by simpa using hd)
  obtain ⟨hstep, hattends, hbuild⟩ := h.step rfl heffect (by simp) (by simp)
  refine ⟨_, hstep, hattends, hbuild, ?_, fun d' => ?_⟩
  · rw [resetLineOf_respondUnspecified, resetLineOf_resetEdge]
  · simpa using resetLineOf_resetEdge_or d d' { s with inputs := es }

/-- R181: the release of a domain, once each has had its edge, changes the lines only. -/
theorem Attends.release (h : Attends s (.rstRelease d :: es))
    (hmay : ∀ d', (resetLineOf d' s).mayRelease = true) :
    ∃ t, Machine.step s = .next t ∧ Attends t es ∧ t.build = s.build
      ∧ t = { s with inputs := es, rstP := t.rstP, rstC := t.rstC } ∧ resetLineOf d t = .released
      ∧ ∀ d', resetLineOf d' t = .released ∨ resetLineOf d' t = resetLineOf d' s := by
  obtain ⟨t, heffect, hframe, hreleased, hlines⟩ :=
    releaseReset_mayRelease (s := { s with inputs := es }) d (by simpa using hmay)
  obtain ⟨hstep, hattends, hbuild⟩ := h.step rfl heffect (by rw [hframe]) (by rw [hframe])
  exact ⟨t, hstep, hattends, hbuild, hframe, hreleased, by simpa using hlines⟩

theorem mayRelease_of_or {l l' : ResetLine} (h : l = .released ∨ l = l') (hl' : l'.mayRelease = true) :
    l.mayRelease = true := by
  rcases h with rfl | rfl
  · rfl
  · exact hl'

theorem run_step {k : Nat} (h : step s = .next t) :
    Host.Core.run Sys2Proof.core (k + 1) s = Host.Core.run Sys2Proof.core k t := by
  have hcore : Sys2Proof.core.step s = .next t := h
  simp [Host.Core.run, hcore]

/-- R180, R183: `rst` asserted and one edge of each domain leave both domains at their reset values, with their edges
seen. -/
theorem Attends.resets {late' : Bool}
    (h : Attends s (.rstAssert :: .edge .producer none late :: .edge .consumer none late' :: es)) (k : Nat) :
    ∃ t, Host.Core.run Sys2Proof.core (k + 3) s = Host.Core.run Sys2Proof.core k t ∧ Attends t es
      ∧ t.build = s.build ∧ (∀ d, resetLineOf d t = .asserted true) ∧ ProducerSideReset t ∧ ConsumerSideReset t := by
  obtain ⟨s₁, hstep₁, h₁, hbuild₁, hlines₁⟩ := h.assert
  obtain ⟨s₂, hstep₂, h₂, hbuild₂, hP₂, hlines₂⟩ := h₁.edge (hlines₁ .producer)
  have hC₂ : resetLineOf .consumer s₂ ≠ .released := by
    rcases hlines₂ .consumer with hC | hC <;> rw [hC]
    · simp
    · exact hlines₁ .consumer
  obtain ⟨s₃, hstep₃, h₃, hbuild₃, hC₃, hlines₃⟩ := h₂.edge hC₂
  have hP₃ : resetLineOf .producer s₃ = .asserted true := (hlines₃ .producer).elim id (·.trans hP₂)
  have hinv := h₃.inv
  obtain ⟨-, -, -, -, -, hproducer, hconsumer, -⟩ := hinv
  refine ⟨s₃, ?_, h₃, hbuild₃.trans (hbuild₂.trans hbuild₁), ?_, hproducer hP₃, hconsumer hC₃⟩
  · rw [run_step hstep₁, run_step hstep₂, run_step hstep₃]
  · rintro (_ | _)
    exacts [hP₃, hC₃]

/-- R181: once each domain has had its edge, a release of one domain and then of the other takes the block out of reset
and changes nothing else. -/
theorem Attends.releases (h : Attends s (.rstRelease .producer :: .rstRelease .consumer :: es))
    (hlines : ∀ d, resetLineOf d s = .asserted true) (k : Nat) :
    ∃ t, Host.Core.run Sys2Proof.core (k + 2) s = Host.Core.run Sys2Proof.core k t ∧ Running t
      ∧ t = { s with inputs := es, rstP := t.rstP, rstC := t.rstC } := by
  have hmay : ∀ d, (resetLineOf d s).mayRelease = true := fun d => by rw [hlines d]; rfl
  obtain ⟨s₁, hstep₁, h₁, -, hframe₁, hP₁, hlines₁⟩ := h.release hmay
  obtain ⟨s₂, hstep₂, -, -, hframe₂, hC₂, hlines₂⟩ := h₁.release fun d => mayRelease_of_or (hlines₁ d) (hmay d)
  refine ⟨s₂, ?_, ⟨(hlines₂ .producer).elim id (·.trans hP₁), hC₂⟩, ?_⟩
  · rw [run_step hstep₁, run_step hstep₂]
  · rw [hframe₂, hframe₁]

/-! ### Draining a count (R124, R188) -/

/-- R122: a POP of a ring in which the consumer sees an element returns one, and leaves its count one lower. -/
theorem BlockInv.exec_pop_returns (h : BlockInv s) (hr : Running s) (hc : s.cCount ≠ 0)
    (he : Machine.exec .pop s = .next u) : (returned (.op .pop) u).length = 1 ∧ u.cCount + 1 = s.cCount := by
  rcases exec_cases hr he with ⟨_, _, -, -, hempty, -⟩ | ⟨_, hpush, -⟩ | ⟨v, -, -, -, rfl⟩ | ⟨_, hingest, -⟩
    | ⟨_, hingest, -⟩
  · exact absurd (hempty rfl).1 hc
  · cases hpush
  · exact ⟨rfl, take_cCount h hr hc⟩
  · cases hingest
  · cases hingest

theorem returned_of_ne_pop (hne : e ≠ .op .pop) (t : State) : returned e t = [] := by
  unfold returned
  split
  · exact absurd rfl hne
  · rfl

/-- No event but a POP takes from the consumer's count. -/
theorem BlockInv.perform_cCount_le (h : BlockInv s) (hr : Running s) (hne : e ≠ .op .pop)
    (he : Machine.perform e s = .next t) : s.cCount ≤ t.cCount := by
  cases e with
  | op i => exact h.exec_cCount_le hr (fun hi => hne (congrArg Event.op hi)) he
  | sync d k => exact h.syncStep_cCount_le he

/-- R188: over a schedule with no more POPs than the consumer counts at its start every POP returns an element, by
induction on the schedule: a POP takes one from the count, and no other event takes from it. -/
theorem BlockInv.trace_returned_length {es : List Event} {acc ret : List Elem} (h : BlockInv s) (hr : Running s)
    (hpops : es.count (.op .pop) ≤ s.cCount) (htrace : trace es s = some (t, acc, ret)) :
    ret.length = es.count (.op .pop) := by
  induction es generalizing s acc ret with
  | nil =>
    cases htrace
    rfl
  | cons e es ih =>
    obtain ⟨u, acc', ret', he, hes, -, rfl⟩ := trace_cons_some htrace
    obtain ⟨hu, hru⟩ := h.perform hr he
    by_cases hpop : e = .op .pop
    · subst hpop
      rw [List.count_cons_self] at hpops ⊢
      obtain ⟨hone, hcount⟩ := h.exec_pop_returns hr (by omega) he
      have hrest := ih hu hru (by omega) hes
      rw [List.length_append]
      omega
    · rw [List.count_cons_of_ne hpop] at hpops ⊢
      rw [returned_of_ne_pop hpop, List.nil_append]
      exact ih hu hru (hpops.trans (h.perform_cCount_le hr hpop he)) hes

/-! ### Who may drive a port (R140, R184) -/

theorem step_shared (hd : portsDistinct s = false) : step s = .refused .sharedPort := by
  obtain ⟨r, hr⟩ := step_eq_composed s
  rw [hr, composed]
  exact if_pos hd

theorem takeInput_request_driven {p : Port} {bits : Nat} (hd : portsDistinct s = true) (hl : s.build.legal = true)
    (hf : stateFault s = none) (hp : portDriven p s = true) :
    takeInput (.request p bits) s = .refused .sharedPort := by
  rw [takeInput, composed_ok hd hl hf, fromOutside]
  exact if_pos hp

/-- A script with one operation of another port, or one its port cannot carry, is not a script of its port. -/
theorem scriptOnPort_eq_false {b : Build} {a : Agent} (hmem : .op i ∈ a.script)
    (hi : i.port ≠ a.port ∨ i.wellFormed b = false) : a.scriptOnPort b = false := by
  rw [Agent.scriptOnPort, List.all_eq_false]
  refine ⟨.op i, hmem, ?_⟩
  rcases hi with hi | hi <;> simp [hi]

theorem agentStep_scriptNotOnPort {k : Nat} {a : Agent} (ha : s.agents[k]? = some a)
    (hs : a.scriptOnPort s.build = false) : agentStep k s = .refused .scriptNotOnPort := by
  simp [agentStep, ha, hs]

end Sys2Proof.Machine
end

section
/-! PROOFS. The obligations of the family 70_reset_and_hazards.md. -/

namespace Sys2Proof.Proofs.ResetFamily

open Sys2Proof Sys2Proof.Machine

/-- Settles O49: a POP takes one from the consumer's count and returns an element, and no other event takes from it. -/
theorem drainOfTheCountNeverMeetsEmpty : Obligations.DrainOfTheCountNeverMeetsEmpty :=
  fun _ _ _ _ _ h hr _ hpops htrace => h.trace_returned_length hr hpops htrace

/-- Settles O15: three steps to the reset values under `rst`, and two out of it that change only the lines. -/
theorem resetSequenceReturnsTheResetValues : Obligations.ResetSequenceReturnsTheResetValues := by
  intro s l₁ l₂ h hd hin
  obtain ⟨u, hrun₁, hattends, hbuild, hlines, hproducer, hconsumer⟩ := Attends.resets ⟨h, hd, hin⟩ 2
  obtain ⟨t, hrun₂, hrunning, hframe⟩ := hattends.releases hlines 0
  have hproducer' : ProducerSideReset t := by rw [hframe]; exact hproducer
  have hconsumer' : ConsumerSideReset t := by rw [hframe]; exact hconsumer
  refine ⟨t, hrun₁.trans hrun₂, hrunning, hproducer', hconsumer', ?_, ?_⟩
  · obtain ⟨-, hpushed, -⟩ := hproducer'
    obtain ⟨hpopped, -⟩ := hconsumer'
    simp [State.occupancy, hpushed, hpopped]
  · rw [hframe]
    exact hbuild

/-- Settles O16: the request is its clock's reset edge, with an unspecified response on its own port. -/
theorem requestUnderResetIsIgnored : Obligations.RequestUnderResetIsIgnored := by
  intro i s p c hl hw hf hP hC
  obtain ⟨hproducer, hconsumer, hingest⟩ := respondUnspecified_resp_other i.port (resetEdge (domainOf i.port) s)
  simp only [resetEdge_resp] at hproducer hconsumer hingest
  refine ⟨_, exec_underReset hl hw hf hP hC, by simp, by simp, by simp, fun hk => ?_, fun hi => ?_, fun hi => ?_⟩
  · rw [resetEdge_sync hk]
    exact ⟨resetProducerSide_reset s, resetConsumerSide_reset _, rfl, rfl⟩
  · obtain ⟨hreset, hline⟩ := resetEdge_consumer_reset s
    rw [hi] at hproducer hingest ⊢
    refine ⟨hreset, hline, fun hk => ?_, hproducer (by simp), hingest (by simp), _, rfl, rfl⟩
    rw [domainOf, resetEdge_consumer_async hk]
    rfl
  · obtain ⟨hreset, hline⟩ := resetEdge_producer_reset s
    rw [domainOf_of_ne_consumer hi] at hproducer hconsumer hingest ⊢
    refine ⟨hreset, hline, fun hk => ?_, hconsumer hi, fun hp => hingest (by simp [hp]),
      fun hp => hproducer (by simp [hp])⟩
    rw [resetEdge_producer_async hk]
    rfl

/-- Settles O17: a request that fits its port meets the reset lines next, and a release asks for each domain's edge. -/
theorem halfResetRequestsAndEarlyReleasesAreRefused : Obligations.HalfResetRequestsAndEarlyReleasesAreRefused :=
  ⟨fun _ _ hl hw hf hhalf => exec_halfReset hl hw hf hhalf, fun d _ h => releaseReset_early d h⟩

/-- Settles O60: each refusal comes before whatever the step, the request or the agent's line would do. -/
theorem portOwnershipIsEnforced : Obligations.PortOwnershipIsEnforced := by
  refine ⟨fun s hd => step_shared hd, fun s p bits rest hin hl hf hp => ?_, fun s k a i ha hmem hi => ?_⟩
  · cases hd : portsDistinct s with
    | false => exact step_shared hd
    | true =>
      rw [step, hin]
      exact takeInput_request_driven hd hl (stateFault_setInputs.trans hf) hp
  · exact agentStep_scriptNotOnPort ha (scriptOnPort_eq_false hmem hi)

end Sys2Proof.Proofs.ResetFamily
end
